-- ==== Sys2Proof/Word.lean ====
section
/-! DEFINITION. The widths of the hardware: words, addresses and bytes (spec/00_scope.md R10, R13). -/

namespace Sys2Proof

/-- A 16-bit word: a register, the PSW, an address, an instruction word (R10: XLEN = ALEN = 16). -/
abbrev Word := BitVec 16

/-- An 8-bit byte (R13). -/
abbrev Byte := BitVec 8

end Sys2Proof
end

