-- ==== Sys2Proof/Syntax.lean ====
section
/-! DEFINITION. Instructions as syntax: registers, addressing modes, operand specifiers, and one constructor for
each row of spec/opcode_table.json (spec/30_encoding.md R100 to R110). -/

namespace Sys2Proof

/-- The eight general registers; register 6 is the stack pointer and register 7 the program counter
(spec/10_state.md R30). -/
inductive Reg
  | r0 | r1 | r2 | r3 | r4 | r5 | sp | pc
deriving DecidableEq, Repr

/-- The eight addressing modes, numbered 0 to 7 in this order (spec/30_encoding.md R103). -/
inductive Mode
  | register | deferred | autoInc | autoIncDeferred | autoDec | autoDecDeferred | index | indexDeferred
deriving DecidableEq, Repr

/-- An operand specifier: a mode and a register (spec/30_encoding.md R103). -/
structure Operand where
  mode : Mode
  reg  : Reg
deriving DecidableEq, Repr

/-- The decoded instructions, in the order of the opcode table. An operand's index, immediate or absolute word is
no part of the instruction: the resolver fetches it while the instruction runs (spec/30_encoding.md R102). A
`reserved` constructor stands for one RESERVED row and keeps the whole word that was fetched (DESIGN CHOICE, log 26). -/
inductive Instr
  /-- HALT, match 0x0000 mask 0xFFFF (46_system_instructions.md R420). -/
  | halt
  /-- WAIT, match 0x0001 mask 0xFFFF (46_system_instructions.md R421). -/
  | wait
  /-- RTI, match 0x0002 mask 0xFFFF (46_system_instructions.md R422). -/
  | rti
  /-- BPT, match 0x0003 mask 0xFFFF (46_system_instructions.md R423). -/
  | bpt
  /-- IOT, match 0x0004 mask 0xFFFF (46_system_instructions.md R424). -/
  | iot
  /-- RESET, match 0x0005 mask 0xFFFF (46_system_instructions.md R425). -/
  | reset
  /-- RTT, match 0x0006 mask 0xFFFF (46_system_instructions.md R426). -/
  | rtt
  /-- JMP, match 0x0040 mask 0xFFC0 (45_control_transfer.md R380). -/
  | jmp (dst : Operand)
  /-- RTS, match 0x0080 mask 0xFFF8 (45_control_transfer.md R382). -/
  | rts (r : Reg)
  /-- NOP, match 0x00A0 mask 0xFFFF (46_system_instructions.md R452). -/
  | nop
  /-- CLC, match 0x00A1 mask 0xFFFF (46_system_instructions.md R441). -/
  | clc
  /-- CLV, match 0x00A2 mask 0xFFFF (46_system_instructions.md R442). -/
  | clv
  /-- CLVC, match 0x00A3 mask 0xFFFF (46_system_instructions.md R440). -/
  | clvc
  /-- CLZ, match 0x00A4 mask 0xFFFF (46_system_instructions.md R443). -/
  | clz
  /-- CLZC, match 0x00A5 mask 0xFFFF (46_system_instructions.md R440). -/
  | clzc
  /-- CLZV, match 0x00A6 mask 0xFFFF (46_system_instructions.md R440). -/
  | clzv
  /-- CLZVC, match 0x00A7 mask 0xFFFF (46_system_instructions.md R440). -/
  | clzvc
  /-- CLN, match 0x00A8 mask 0xFFFF (46_system_instructions.md R444). -/
  | cln
  /-- CLNC, match 0x00A9 mask 0xFFFF (46_system_instructions.md R440). -/
  | clnc
  /-- CLNV, match 0x00AA mask 0xFFFF (46_system_instructions.md R440). -/
  | clnv
  /-- CLNVC, match 0x00AB mask 0xFFFF (46_system_instructions.md R440). -/
  | clnvc
  /-- CLNZ, match 0x00AC mask 0xFFFF (46_system_instructions.md R440). -/
  | clnz
  /-- CLNZC, match 0x00AD mask 0xFFFF (46_system_instructions.md R440). -/
  | clnzc
  /-- CLNZV, match 0x00AE mask 0xFFFF (46_system_instructions.md R440). -/
  | clnzv
  /-- CCC, match 0x00AF mask 0xFFFF (46_system_instructions.md R445). -/
  | ccc
  /-- SE0, match 0x00B0 mask 0xFFFF (46_system_instructions.md R453). -/
  | se0
  /-- SEC, match 0x00B1 mask 0xFFFF (46_system_instructions.md R446). -/
  | sec
  /-- SEV, match 0x00B2 mask 0xFFFF (46_system_instructions.md R447). -/
  | sev
  /-- SEVC, match 0x00B3 mask 0xFFFF (46_system_instructions.md R440). -/
  | sevc
  /-- SEZ, match 0x00B4 mask 0xFFFF (46_system_instructions.md R448). -/
  | sez
  /-- SEZC, match 0x00B5 mask 0xFFFF (46_system_instructions.md R440). -/
  | sezc
  /-- SEZV, match 0x00B6 mask 0xFFFF (46_system_instructions.md R440). -/
  | sezv
  /-- SEZVC, match 0x00B7 mask 0xFFFF (46_system_instructions.md R440). -/
  | sezvc
  /-- SEN, match 0x00B8 mask 0xFFFF (46_system_instructions.md R449). -/
  | sen
  /-- SENC, match 0x00B9 mask 0xFFFF (46_system_instructions.md R440). -/
  | senc
  /-- SENV, match 0x00BA mask 0xFFFF (46_system_instructions.md R440). -/
  | senv
  /-- SENVC, match 0x00BB mask 0xFFFF (46_system_instructions.md R440). -/
  | senvc
  /-- SENZ, match 0x00BC mask 0xFFFF (46_system_instructions.md R440). -/
  | senz
  /-- SENZC, match 0x00BD mask 0xFFFF (46_system_instructions.md R440). -/
  | senzc
  /-- SENZV, match 0x00BE mask 0xFFFF (46_system_instructions.md R440). -/
  | senzv
  /-- SCC, match 0x00BF mask 0xFFFF (46_system_instructions.md R451). -/
  | scc
  /-- SWAB, match 0x00C0 mask 0xFFC0 (44_single_operand.md R330). -/
  | swab (dst : Operand)
  /-- BR, match 0x0100 mask 0xFF00 (45_control_transfer.md R390). -/
  | br (off : BitVec 8)
  /-- BNE, match 0x0200 mask 0xFF00 (45_control_transfer.md R391). -/
  | bne (off : BitVec 8)
  /-- BEQ, match 0x0300 mask 0xFF00 (45_control_transfer.md R392). -/
  | beq (off : BitVec 8)
  /-- BGE, match 0x0400 mask 0xFF00 (45_control_transfer.md R393). -/
  | bge (off : BitVec 8)
  /-- BLT, match 0x0500 mask 0xFF00 (45_control_transfer.md R394). -/
  | blt (off : BitVec 8)
  /-- BGT, match 0x0600 mask 0xFF00 (45_control_transfer.md R395). -/
  | bgt (off : BitVec 8)
  /-- BLE, match 0x0700 mask 0xFF00 (45_control_transfer.md R396). -/
  | ble (off : BitVec 8)
  /-- BPL, match 0x8000 mask 0xFF00 (45_control_transfer.md R397). -/
  | bpl (off : BitVec 8)
  /-- BMI, match 0x8100 mask 0xFF00 (45_control_transfer.md R398). -/
  | bmi (off : BitVec 8)
  /-- BHI, match 0x8200 mask 0xFF00 (45_control_transfer.md R399). -/
  | bhi (off : BitVec 8)
  /-- BLOS, match 0x8300 mask 0xFF00 (45_control_transfer.md R400). -/
  | blos (off : BitVec 8)
  /-- BVC, match 0x8400 mask 0xFF00 (45_control_transfer.md R401). -/
  | bvc (off : BitVec 8)
  /-- BVS, match 0x8500 mask 0xFF00 (45_control_transfer.md R402). -/
  | bvs (off : BitVec 8)
  /-- BCC, match 0x8600 mask 0xFF00 (45_control_transfer.md R403). -/
  | bcc (off : BitVec 8)
  /-- BCS, match 0x8700 mask 0xFF00 (45_control_transfer.md R404). -/
  | bcs (off : BitVec 8)
  /-- JSR, match 0x0800 mask 0xFE00 (45_control_transfer.md R381). -/
  | jsr (r : Reg) (dst : Operand)
  /-- CLR, match 0x0A00 mask 0xFFC0 (44_single_operand.md R300). -/
  | clr (dst : Operand)
  /-- CLRB, match 0x8A00 mask 0xFFC0 (44_single_operand.md R301). -/
  | clrb (dst : Operand)
  /-- COM, match 0x0A40 mask 0xFFC0 (44_single_operand.md R302). -/
  | com (dst : Operand)
  /-- COMB, match 0x8A40 mask 0xFFC0 (44_single_operand.md R303). -/
  | comb (dst : Operand)
  /-- INC, match 0x0A80 mask 0xFFC0 (44_single_operand.md R304). -/
  | inc (dst : Operand)
  /-- INCB, match 0x8A80 mask 0xFFC0 (44_single_operand.md R305). -/
  | incb (dst : Operand)
  /-- DEC, match 0x0AC0 mask 0xFFC0 (44_single_operand.md R306). -/
  | dec (dst : Operand)
  /-- DECB, match 0x8AC0 mask 0xFFC0 (44_single_operand.md R307). -/
  | decb (dst : Operand)
  /-- NEG, match 0x0B00 mask 0xFFC0 (44_single_operand.md R308). -/
  | neg (dst : Operand)
  /-- NEGB, match 0x8B00 mask 0xFFC0 (44_single_operand.md R309). -/
  | negb (dst : Operand)
  /-- ADC, match 0x0B40 mask 0xFFC0 (44_single_operand.md R310). -/
  | adc (dst : Operand)
  /-- ADCB, match 0x8B40 mask 0xFFC0 (44_single_operand.md R311). -/
  | adcb (dst : Operand)
  /-- SBC, match 0x0B80 mask 0xFFC0 (44_single_operand.md R312). -/
  | sbc (dst : Operand)
  /-- SBCB, match 0x8B80 mask 0xFFC0 (44_single_operand.md R313). -/
  | sbcb (dst : Operand)
  /-- TST, match 0x0BC0 mask 0xFFC0 (44_single_operand.md R314). -/
  | tst (dst : Operand)
  /-- TSTB, match 0x8BC0 mask 0xFFC0 (44_single_operand.md R315). -/
  | tstb (dst : Operand)
  /-- ROR, match 0x0C00 mask 0xFFC0 (44_single_operand.md R316). -/
  | ror (dst : Operand)
  /-- RORB, match 0x8C00 mask 0xFFC0 (44_single_operand.md R317). -/
  | rorb (dst : Operand)
  /-- ROL, match 0x0C40 mask 0xFFC0 (44_single_operand.md R318). -/
  | rol (dst : Operand)
  /-- ROLB, match 0x8C40 mask 0xFFC0 (44_single_operand.md R319). -/
  | rolb (dst : Operand)
  /-- ASR, match 0x0C80 mask 0xFFC0 (44_single_operand.md R320). -/
  | asr (dst : Operand)
  /-- ASRB, match 0x8C80 mask 0xFFC0 (44_single_operand.md R321). -/
  | asrb (dst : Operand)
  /-- ASL, match 0x0CC0 mask 0xFFC0 (44_single_operand.md R322). -/
  | asl (dst : Operand)
  /-- ASLB, match 0x8CC0 mask 0xFFC0 (44_single_operand.md R323). -/
  | aslb (dst : Operand)
  /-- MARK, match 0x0D00 mask 0xFFC0 (45_control_transfer.md R385). -/
  | mark (nn : BitVec 6)
  /-- SXT, match 0x0DC0 mask 0xFFC0 (44_single_operand.md R331). -/
  | sxt (dst : Operand)
  /-- MOV, match 0x1000 mask 0xF000 (43_double_operand.md R250). -/
  | mov (src : Operand) (dst : Operand)
  /-- MOVB, match 0x9000 mask 0xF000 (43_double_operand.md R251). -/
  | movb (src : Operand) (dst : Operand)
  /-- CMP, match 0x2000 mask 0xF000 (43_double_operand.md R252). -/
  | cmp (src : Operand) (dst : Operand)
  /-- CMPB, match 0xA000 mask 0xF000 (43_double_operand.md R253). -/
  | cmpb (src : Operand) (dst : Operand)
  /-- BIT, match 0x3000 mask 0xF000 (43_double_operand.md R254). -/
  | bit (src : Operand) (dst : Operand)
  /-- BITB, match 0xB000 mask 0xF000 (43_double_operand.md R255). -/
  | bitb (src : Operand) (dst : Operand)
  /-- BIC, match 0x4000 mask 0xF000 (43_double_operand.md R256). -/
  | bic (src : Operand) (dst : Operand)
  /-- BICB, match 0xC000 mask 0xF000 (43_double_operand.md R257). -/
  | bicb (src : Operand) (dst : Operand)
  /-- BIS, match 0x5000 mask 0xF000 (43_double_operand.md R258). -/
  | bis (src : Operand) (dst : Operand)
  /-- BISB, match 0xD000 mask 0xF000 (43_double_operand.md R259). -/
  | bisb (src : Operand) (dst : Operand)
  /-- ADD, match 0x6000 mask 0xF000 (43_double_operand.md R260). -/
  | add (src : Operand) (dst : Operand)
  /-- SUB, match 0xE000 mask 0xF000 (43_double_operand.md R261). -/
  | sub (src : Operand) (dst : Operand)
  /-- XOR, match 0x7800 mask 0xFE00 (43_double_operand.md R262). -/
  | xor (r : Reg) (dst : Operand)
  /-- SOB, match 0x7E00 mask 0xFE00 (45_control_transfer.md R383). -/
  | sob (r : Reg) (nn : BitVec 6)
  /-- EMT, match 0x8800 mask 0xFF00 (46_system_instructions.md R427). -/
  | emt (code : BitVec 8)
  /-- TRAP, match 0x8900 mask 0xFF00 (46_system_instructions.md R428). -/
  | trap (code : BitVec 8)
  /-- MTPS, match 0x8D00 mask 0xFFC0 (44_single_operand.md R340). -/
  | mtps (src : Operand)
  /-- MFPS, match 0x8DC0 mask 0xFFC0 (44_single_operand.md R342). -/
  | mfps (dst : Operand)
  /-- RESERVED, match 0x0007 mask 0xFFFF (46_system_instructions.md R450). -/
  | reserved0007
  /-- RESERVED, match 0x0008 mask 0xFFF8 (46_system_instructions.md R450). -/
  | reserved0008 (w : Word)
  /-- RESERVED, match 0x0010 mask 0xFFF0 (46_system_instructions.md R450). -/
  | reserved0010 (w : Word)
  /-- RESERVED, match 0x0020 mask 0xFFE0 (46_system_instructions.md R450). -/
  | reserved0020 (w : Word)
  /-- RESERVED, match 0x0088 mask 0xFFF8 (46_system_instructions.md R450). -/
  | reserved0088 (w : Word)
  /-- RESERVED, match 0x0090 mask 0xFFF0 (46_system_instructions.md R450). -/
  | reserved0090 (w : Word)
  /-- RESERVED, match 0x0D40 mask 0xFFC0 (46_system_instructions.md R450). -/
  | reserved0D40 (w : Word)
  /-- RESERVED, match 0x0D80 mask 0xFFC0 (46_system_instructions.md R450). -/
  | reserved0D80 (w : Word)
  /-- RESERVED, match 0x0E00 mask 0xFE00 (46_system_instructions.md R450). -/
  | reserved0E00 (w : Word)
  /-- RESERVED, match 0x7000 mask 0xF800 (46_system_instructions.md R450). -/
  | reserved7000 (w : Word)
  /-- RESERVED, match 0x7A00 mask 0xFE00 (46_system_instructions.md R450). -/
  | reserved7A00 (w : Word)
  /-- RESERVED, match 0x7C00 mask 0xFE00 (46_system_instructions.md R450). -/
  | reserved7C00 (w : Word)
  /-- RESERVED, match 0x8D40 mask 0xFFC0 (46_system_instructions.md R450). -/
  | reserved8D40 (w : Word)
  /-- RESERVED, match 0x8D80 mask 0xFFC0 (46_system_instructions.md R450). -/
  | reserved8D80 (w : Word)
  /-- RESERVED, match 0x8E00 mask 0xFE00 (46_system_instructions.md R450). -/
  | reserved8E00 (w : Word)
  /-- RESERVED, match 0xF000 mask 0xF000 (46_system_instructions.md R450). -/
  | reservedF000 (w : Word)
deriving DecidableEq, Repr

end Sys2Proof
end

