-- ==== Sys2Proof/Config.lean ====
section
/-! DEFINITION. The parameters of the machine (spec/00_scope.md R10) and the values the spec leaves open. `Params`
is held by the state and no step writes it, so that a statement can speak of every variant and every policy. -/

namespace Sys2Proof

/-- The two variants of the core (R2). -/
inductive Variant
  | base | extended
deriving DecidableEq, Repr

/-- What a word access at an odd address does (spec/20_memory.md R74). -/
inductive OddWordPolicy
  | align | fault
deriving DecidableEq, Repr

/-- The PC an aborted instruction leaves behind (spec/40_dispatch_loop.md R158). -/
inductive FaultPcPolicy
  | instrStart | afterFetch
deriving DecidableEq, Repr

/-- One entry of BASE_IRQ_TABLE (spec/60_exceptions.md R481). -/
structure IrqEntry where
  priority : BitVec 3
  vector   : Word
deriving DecidableEq, Repr

/-- A range of logical addresses and the physical address its first byte is answered at. -/
structure Window where
  base   : Nat
  size   : Nat
  target : Nat
deriving DecidableEq, Repr

/-- The environment's memory mapper, one list of windows for each bank (spec/20_memory.md R85). A logical address
in no window is its own physical address (DESIGN CHOICE, log 9; safe, since statements range over every mapper). -/
structure Mapper where
  nonpriv : List Window
  priv    : List Window
deriving DecidableEq, Repr

/-- A peripheral of the daisy chain: its pending flag, and what `ack` answers now, a vector or a decline
(spec/60_exceptions.md R528; log 8). -/
structure Peripheral where
  pending : Bool
  answer  : Option Word
deriving DecidableEq, Repr

/-- The parameters of R10 that are an argument or a choice. `chain` is CHAIN: the peripherals as they are wired, in
their order, with the flag and the answer each has at power-on (spec/60_exceptions.md R529). -/
structure Params where
  variant    : Variant
  oddWord    : OddWordPolicy
  faultPc    : FaultPcPolicy
  baseTrace  : Bool
  haltVector : Word
  initialPc  : Vector Word 8
  irqTable   : Vector (Option IrqEntry) 16
  mapper     : Mapper
  chain      : List Peripheral
deriving DecidableEq, Repr

/-- HALT_VECTOR is OPEN (spec/92_eei_decisions.md D13): a free value, no body (log 11, safe). -/
opaque Config.haltVector : Word

/-- CYCLES of an instruction, less one: R10 makes the cost positive and gives no value (D26; log 12, safe). -/
opaque Config.cyclesLessOne : Instr → Nat

/-- TRAP_CYCLES, less one: positive, no value given (D26; log 12, safe). -/
opaque Config.trapCyclesLessOne : Nat

/-- The cost of an instruction whose opcode fetch failed, less one: no value given (log 12, safe). -/
opaque Config.abortedFetchCyclesLessOne : Nat

/-- The bit of the PSW that holds H in the EXTENDED variant (PRIV_BIT, R10). -/
def Config.privBit : Nat := 8

/-- The bus-fault vector (spec/60_exceptions.md R471). -/
def Config.vecBusFault : Word := 0x0004
/-- The vector of the BASE HALT instruction (R471). -/
def Config.vecHaltInsn : Word := 0x0004
/-- The reserved-instruction vector (R471). -/
def Config.vecReserved : Word := 0x0008
/-- The trace and BPT vector (R471). -/
def Config.vecTrace : Word := 0x000C
/-- The IOT vector (R471). -/
def Config.vecIot : Word := 0x0010
/-- The power-fail vector (R471). -/
def Config.vecPowerFail : Word := 0x0014
/-- The EMT vector (R471). -/
def Config.vecEmt : Word := 0x0018
/-- The TRAP vector (R471). -/
def Config.vecTrap : Word := 0x001C
/-- The line-clock event vector (R471). -/
def Config.vecEvent : Word := 0x0040

/-- The stack pointer after reset (spec/10_state.md R53). -/
def Config.initialSp : Word := 0x00FE
/-- The PSW after reset (spec/10_state.md R53). -/
def Config.initialPsw : Word := 0x00E0

/-- INITIAL_PC (spec/10_state.md R52). -/
def Config.initialPcTable : Vector Word 8 :=
  #v[0xC000, 0x8000, 0x4000, 0x2000, 0x1000, 0x0000, 0xF600, 0xF400]

/-- BASE_IRQ_TABLE (spec/60_exceptions.md R481). Index 0 is "no request": no entry (log 24). -/
def Config.baseIrqTable : Vector (Option IrqEntry) 16 :=
  #v[none,             some ⟨4, 0x0038⟩, some ⟨4, 0x0034⟩, some ⟨4, 0x0030⟩,
     some ⟨5, 0x005C⟩, some ⟨5, 0x0058⟩, some ⟨5, 0x0054⟩, some ⟨5, 0x0050⟩,
     some ⟨6, 0x004C⟩, some ⟨6, 0x0048⟩, some ⟨6, 0x0044⟩, some ⟨6, 0x0040⟩,
     some ⟨7, 0x006C⟩, some ⟨7, 0x0068⟩, some ⟨7, 0x0064⟩, some ⟨7, 0x0060⟩]

/-- The BASE machine with the values of R10 and an empty CHAIN (log 3). BASE has no halt path: its `haltVector` is never
read (R530, log 11). -/
def Config.base : Params where
  variant    := .base
  oddWord    := .align
  faultPc    := .instrStart
  baseTrace  := true
  haltVector := 0
  initialPc  := Config.initialPcTable
  irqTable   := Config.baseIrqTable
  mapper     := ⟨[], []⟩
  chain      := []

/-- The EXTENDED machine with the values of R10 and a given HALT_VECTOR. -/
def Config.extended (haltVector : Word) : Params :=
  { Config.base with variant := .extended, haltVector := haltVector }

/-- The EXTENDED machine with its open HALT_VECTOR (D13; log 11). -/
def Config.extendedOpen : Params := Config.extended Config.haltVector

end Sys2Proof
end

