-- ==== Sys2Proof/Machine/State.lean ====
section
/-! DEFINITION. The state of the machine as plain data (spec/10_state.md, spec/20_memory.md), why it can stop, and
the state after reset. Everything outside the core that the spec lets the core see (bus answers, acknowledge answers,
peripherals, what happens between two steps) stands in the state as data that the step reads. -/

namespace Sys2Proof.Machine

/-- Operand sizes W and B (spec/00_scope.md R15). -/
inductive Size
  | word | byte
deriving DecidableEq, Repr

/-- The eight general registers, R6 = SP and R7 = PC (spec/10_state.md R30). -/
structure Regs where
  r0 : Word
  r1 : Word
  r2 : Word
  r3 : Word
  r4 : Word
  r5 : Word
  sp : Word
  pc : Word
deriving DecidableEq, Repr

/-- Registers and PSW together: what S0 and S1 save (spec/40_dispatch_loop.md R152, spec/60_exceptions.md R475). -/
structure Snapshot where
  regs : Regs
  psw  : Word
deriving DecidableEq, Repr

/-- The memory bank the mapper is switched to (spec/20_memory.md R85). -/
inductive Bank
  | nonpriv | priv
deriving DecidableEq, Repr

/-- Memory bytes by physical address. The canonical form is `Memory.wf`; an address not listed reads 0
(DESIGN CHOICE, log 5; unsafe). -/
abbrev Memory := List Host.Cell

/-- The environment's answer to one bus access (spec/20_memory.md R76, R81; DESIGN CHOICE of form, log 6). -/
inductive BusAnswer
  /-- Plain memory answers. -/
  | memory
  /-- A device answers: a read gives `v` (its low byte to a byte read), a write leaves memory alone (DESIGN CHOICE,
  log 25). -/
  | device (v : Word)
  /-- The access fails. -/
  | fail
deriving DecidableEq, Repr

/-- The environment's answer to one `irq_ack` call: a vector or "no substitution", and the request lines the
environment leaves behind, where the call changes them (spec/60_exceptions.md R482; log 7). -/
structure IrqAnswer where
  vector   : Option Word
  irqAfter : Option (BitVec 4)
deriving DecidableEq, Repr

/-- One thing the environment or the driver does between two steps (spec/00_scope.md R19, R20;
spec/92_eei_decisions.md D36; log 10). -/
inductive EnvInput
  /-- IRQ_STATE is driven to a value (BASE). -/
  | irq (lines : BitVec 4)
  /-- HALT_LINE is driven to a level (EXTENDED). -/
  | haltLine (level : Bool)
  /-- An active edge of the line-clock event input (EXTENDED). -/
  | eventEdge
  /-- POWER_FAIL_REQ is set or cleared (EXTENDED). -/
  | powerFail (level : Bool)
  /-- VIRQ is set or cleared (EXTENDED). -/
  | virq (level : Bool)
  /-- Peripheral `k` of the chain changes its pending flag or its answer. -/
  | peripheral (k : Nat) (p : Peripheral)
  /-- A memory or device byte changes. -/
  | store (addr : Nat) (v : Byte)
  /-- The driver's Reset with a reset bank. -/
  | reset (bank : BitVec 3)
deriving DecidableEq, Repr

/-- A call the core makes to the environment (spec/20_memory.md R77, R85; spec/40_dispatch_loop.md R159;
spec/46_system_instructions.md R425; spec/60_exceptions.md R482, R528; log 19). -/
inductive EnvCall
  | read (addr : Word) (size : Size)
  | write (addr : Word) (size : Size) (v : Word)
  | bankSwitch (b : Bank)
  | busReset
  | irqAck (lines : BitVec 4)
  | chainAck (k : Nat)
  | hook (pc : Word)
deriving DecidableEq, Repr

/-- The state of the machine. -/
structure State where
  /-- The parameters (spec/00_scope.md R10); no step writes them. -/
  params          : Params
  /-- R0 to R7 (R30). -/
  regs            : Regs
  /-- The processor status word (R36). -/
  psw             : Word
  /-- The PC shadow (R42). -/
  ppc             : Word
  /-- The PSW shadow (R42). -/
  ppsw            : Word
  /-- WAIT_STATE (R43). -/
  waitState       : Bool
  /-- TRACE_PENDING (R44). -/
  tracePending    : Bool
  /-- BUS_FAULT_PENDING (R45). -/
  busFaultPending : Bool
  /-- BUS_FAULT_COUNT (R45). -/
  busFaultCount   : Nat
  /-- DOUBLE_FAULT (R46). -/
  doubleFault     : Bool
  /-- EVENT_LATCH, EXTENDED (R47). -/
  eventLatch      : Bool
  /-- POWER_FAIL_REQ, EXTENDED (R48). -/
  powerFailReq    : Bool
  /-- HALT_LINE, EXTENDED (R49). -/
  haltLine        : Bool
  /-- VIRQ, EXTENDED (R50). -/
  virq            : Bool
  /-- IRQ_STATE, BASE (R51). -/
  irqState        : BitVec 4
  /-- The memory bank (R53). -/
  bank            : Bank
  /-- Memory (spec/20_memory.md R70). -/
  mem             : Memory
  /-- CHAIN as it stands now: the peripherals of `params.chain`, whose flags and answers change and whose number and
  order do not (spec/60_exceptions.md R528, R529). -/
  chain           : List Peripheral
  /-- The answers the next bus accesses get, the first for the next access; with none left plain memory answers. -/
  answers         : List BusAnswer
  /-- The answers the next `irq_ack` calls get; with none left, no substitution and no change. -/
  irqAnswers      : List IrqAnswer
  /-- What happens at the next instruction boundaries, one batch a step. -/
  inputs          : List (List EnvInput)
  /-- The calls made to the environment so far, newest first. -/
  calls           : List EnvCall
  /-- S0: registers and PSW at the start of the current instruction (spec/40_dispatch_loop.md R152; log 13). -/
  start           : Snapshot
deriving DecidableEq, Repr

/-- Why the machine stops. -/
inductive Fault
  /-- A trap or the halt path goes through a vector that is not a multiple of 4 (spec/60_exceptions.md R478). Raised
  by the trap sequence before any access. Safe: the spec names this fault. -/
  | vectorMisaligned (vec : Word)
deriving DecidableEq, Repr

/-- Why the model refuses. -/
inductive Refusal
  /-- The instruction has no meaning yet. Raised by exec's arm alone. Safe. -/
  | notModelled (mnemonic : String)
deriving DecidableEq, Repr

/-- The registers after reset: SP and PC as spec/10_state.md R53 says; R0 to R5 are 0 (DESIGN CHOICE, log 1;
unsafe). -/
def resetRegs (p : Params) (bank : BitVec 3) : Regs :=
  { r0 := 0, r1 := 0, r2 := 0, r3 := 0, r4 := 0, r5 := 0, sp := Config.initialSp, pc := p.initialPc.get bank.toFin }

/-- The state after reset of a machine with parameters `p` whose environment is idle: no request line, CHAIN as wired,
no answer waiting, nothing listed in memory (spec/10_state.md R53, spec/70_reset_and_hazards.md R570). An EXTENDED
reset has called `bank_switch(NONPRIV)`. PPC and PPSW are 0 (DESIGN CHOICE, log 2; unsafe), HALT_LINE and IRQ_STATE
are idle (DESIGN CHOICE, log 4; unsafe). -/
def State.resetWith (p : Params) (bank : BitVec 3) : State where
  params          := p
  regs            := resetRegs p bank
  psw             := Config.initialPsw
  ppc             := 0
  ppsw            := 0
  waitState       := false
  tracePending    := false
  busFaultPending := false
  busFaultCount   := 0
  doubleFault     := false
  eventLatch      := false
  powerFailReq    := false
  haltLine        := false
  virq            := false
  irqState        := 0
  bank            := .nonpriv
  mem             := []
  chain           := p.chain
  answers         := []
  irqAnswers      := []
  inputs          := []
  calls           := match p.variant with
    | .base => []
    | .extended => [.bankSwitch .nonpriv]
  start           := ⟨resetRegs p bank, Config.initialPsw⟩

/-- The machine right after reset: the BASE variant with the parameters of R10 and the fifth reset bank, index 4
(spec/10_state.md R52, spec/70_reset_and_hazards.md R573; the choice of variant and bank: DESIGN CHOICE, log 3). -/
def State.reset : State := State.resetWith Config.base 4

end Sys2Proof.Machine
end

