-- ==== Sys2Proof/Machine/Flags.lean ====
section
/-! DEFINITION. Bytes and bits of words, the fields of the PSW (spec/10_state.md R36), the flag engine
(spec/42_flag_engine.md R220 to R229), and what each instruction computes from its operand values and the PSW
(spec/43_double_operand.md, spec/44_single_operand.md): a function from the operands and the PSW to the result
and the new PSW. -/

namespace Sys2Proof.Machine

/-- The low byte of a word. -/
def lowByte (w : Word) : Byte := w.extractLsb' 0 8

/-- The high byte of a word. -/
def highByte (w : Word) : Byte := w.extractLsb' 8 8

/-- The word with these bytes, `hi ++ lo` (R12). -/
def joinBytes (hi lo : Byte) : Word := hi ++ lo

/-- `sext_8` (R12). -/
def sext8 (b : Byte) : Word := b.signExtend 16

/-- `w` with bit `i` set to `b`. -/
def withBit (i : Nat) (b : Bool) (w : Word) : Word :=
  if b then w ||| (1#16 <<< i) else w &&& ~~~(1#16 <<< i)

/-- `mask(size)` (R15). -/
def Size.mask : Size → Word
  | .word => 0xFFFF
  | .byte => 0x00FF

/-- `msb(size)` (R15). -/
def Size.msb : Size → Nat
  | .word => 15
  | .byte => 7

/-- A value of an operand's size in its 16-bit carrier (R13). -/
def Size.trim (sz : Size) (v : Word) : Word := v &&& sz.mask

/-! ### Fields of the PSW (R36) -/

/-- C, bit 0. -/
def flagC (p : Word) : Bool := p.getLsbD 0
/-- V, bit 1. -/
def flagV (p : Word) : Bool := p.getLsbD 1
/-- Z, bit 2. -/
def flagZ (p : Word) : Bool := p.getLsbD 2
/-- N, bit 3. -/
def flagN (p : Word) : Bool := p.getLsbD 3
/-- T, bit 4. -/
def flagT (p : Word) : Bool := p.getLsbD 4
/-- PRI, bits 7:5 (R37). -/
def priority (p : Word) : BitVec 3 := p.extractLsb' 5 3
/-- H, bit PRIV_BIT (R40). -/
def flagH (p : Word) : Bool := p.getLsbD Config.privBit

/-- Write C. -/
def withC (b : Bool) (p : Word) : Word := withBit 0 b p
/-- Write V. -/
def withV (b : Bool) (p : Word) : Word := withBit 1 b p
/-- Write Z. -/
def withZ (b : Bool) (p : Word) : Word := withBit 2 b p
/-- Write N. -/
def withN (b : Bool) (p : Word) : Word := withBit 3 b p
/-- Write H. -/
def withH (b : Bool) (p : Word) : Word := withBit Config.privBit b p

/-- PSW_IMPL (R41). -/
def pswImpl : Variant → Word
  | .base => 0x00FF
  | .extended => 0x00FF ||| (1#16 <<< Config.privBit)

/-! ### The primitives -/

/-- `setNZ` (R220). -/
def setNZ (sz : Size) (r p : Word) : Word :=
  withN (r.getLsbD sz.msb) (withZ (sz.trim r == 0) p)

/-- `add`: sum and flags (R221). -/
def addFlags (sz : Size) (a b : Word) (cin : Bool) (p : Word) : Word × Word :=
  let full := (sz.trim a).toNat + (sz.trim b).toNat + cin.toNat
  let r := sz.trim (BitVec.ofNat 16 full)
  let v := a.getLsbD sz.msb == b.getLsbD sz.msb && r.getLsbD sz.msb != a.getLsbD sz.msb
  (r, setNZ sz r (withV v (withC (decide (sz.mask.toNat < full)) p)))

/-- `sub`: difference and flags, C the borrow (R222). -/
def subFlags (sz : Size) (a b : Word) (bin : Bool) (p : Word) : Word × Word :=
  let full : Int := (sz.trim a).toNat - (sz.trim b).toNat - bin.toNat
  let r := sz.trim (BitVec.ofInt 16 full)
  let v := a.getLsbD sz.msb != b.getLsbD sz.msb && r.getLsbD sz.msb != a.getLsbD sz.msb
  (r, setNZ sz r (withV v (withC (decide (full < 0)) p)))

/-- `logic` (R223). -/
def logicFlags (sz : Size) (r p : Word) : Word := withV false (setNZ sz r p)

/-- `shiftflags` (R224). -/
def shiftFlags (sz : Size) (r : Word) (cout : Bool) (p : Word) : Word :=
  let q := setNZ sz r (withC cout p)
  withV (flagN q ^^ flagC q) q

/-! ### Results of the single-operand instructions: operand, PSW ↦ result, PSW -/

/-- CLR (R300, R301). -/
def clrResult (p : Word) : Word × Word :=
  (0, withN false (withZ true (withV false (withC false p))))

/-- COM (R302, R303). -/
def comResult (sz : Size) (x p : Word) : Word × Word :=
  let r := sz.trim (~~~x)
  (r, withC true (withV false (setNZ sz r p)))

/-- INC (R304, R305). -/
def incResult (sz : Size) (x p : Word) : Word × Word :=
  let r := sz.trim (x + 1)
  (r, withV (sz.trim x == sz.mask >>> 1) (setNZ sz r p))

/-- DEC (R306, R307). -/
def decResult (sz : Size) (x p : Word) : Word × Word :=
  let r := sz.trim (x - 1)
  (r, withV (sz.trim x == 1#16 <<< sz.msb) (setNZ sz r p))

/-- NEG (R308, R309). -/
def negResult (sz : Size) (x p : Word) : Word × Word := subFlags sz 0 x false p

/-- ADC (R310, R311). -/
def adcResult (sz : Size) (x p : Word) : Word × Word := addFlags sz x 0 (flagC p) p

/-- SBC (R312, R313). -/
def sbcResult (sz : Size) (x p : Word) : Word × Word := subFlags sz x 0 (flagC p) p

/-- TST: flags alone (R314, R315). -/
def tstFlags (sz : Size) (x p : Word) : Word := withC false (withV false (setNZ sz x p))

/-- ROR (R316, R317). -/
def rorResult (sz : Size) (x p : Word) : Word × Word :=
  let r := withBit sz.msb (flagC p) (sz.trim x >>> 1)
  (r, shiftFlags sz r (x.getLsbD 0) p)

/-- ROL (R318, R319). -/
def rolResult (sz : Size) (x p : Word) : Word × Word :=
  let r := sz.trim (withBit 0 (flagC p) (x <<< 1))
  (r, shiftFlags sz r (x.getLsbD sz.msb) p)

/-- ASR (R320, R321). -/
def asrResult (sz : Size) (x p : Word) : Word × Word :=
  let r := withBit sz.msb (x.getLsbD sz.msb) (sz.trim x >>> 1)
  (r, shiftFlags sz r (x.getLsbD 0) p)

/-- ASL (R322, R323). -/
def aslResult (sz : Size) (x p : Word) : Word × Word :=
  let r := sz.trim (x <<< 1)
  (r, shiftFlags sz r (x.getLsbD sz.msb) p)

/-- SWAB: N and Z from the new low byte (R330). -/
def swabResult (x p : Word) : Word × Word :=
  let r := joinBytes (lowByte x) (highByte x)
  (r, withC false (withV false (setNZ .byte r p)))

/-- SXT (R331). -/
def sxtResult (p : Word) : Word × Word :=
  (if flagN p then 0xFFFF else 0, withV false (withZ (!flagN p) p))

/-! ### Results of the double-operand instructions: source, destination, PSW ↦ result, PSW -/

/-- BIC (R256, R257). -/
def bicResult (sz : Size) (s d p : Word) : Word × Word :=
  let r := sz.trim (~~~s &&& d)
  (r, logicFlags sz r p)

/-- BIS (R258, R259). -/
def bisResult (sz : Size) (s d p : Word) : Word × Word :=
  let r := sz.trim (s ||| d)
  (r, logicFlags sz r p)

/-- XOR (R262). -/
def xorResult (s d p : Word) : Word × Word :=
  (s ^^^ d, logicFlags .word (s ^^^ d) p)

/-- ADD (R260). -/
def addResult (s d p : Word) : Word × Word := addFlags .word s d false p

/-- SUB: destination minus source (R261). -/
def subResult (s d p : Word) : Word × Word := subFlags .word d s false p

/-- CMP: source minus destination, flags alone (R252, R253). -/
def cmpFlags (sz : Size) (s d p : Word) : Word := (subFlags sz s d false p).2

/-- BIT: flags of the conjunction (R254, R255). -/
def bitFlags (sz : Size) (s d p : Word) : Word := logicFlags sz (s &&& d) p

/-! ### The processor status as an operand -/

/-- MTPS: PRI and the condition codes from the byte, T and H kept (R340). -/
def mtpsPsw (v p : Word) : Word := (p &&& ~~~0x00EF) ||| (v &&& 0x00EF)

/-- The condition-code operators: clear the flags of the mask (R440). -/
def clearFlags (mask : BitVec 4) (p : Word) : Word := p &&& ~~~(mask.zeroExtend 16)

/-- The condition-code operators: set the flags of the mask (R440). -/
def setFlags (mask : BitVec 4) (p : Word) : Word := p ||| mask.zeroExtend 16

/-! ### The branch tests (R229) -/

/-- always -/
def condAlways (_ : Word) : Bool := true
/-- NE -/
def condNe (p : Word) : Bool := !flagZ p
/-- EQ -/
def condEq (p : Word) : Bool := flagZ p
/-- GE -/
def condGe (p : Word) : Bool := !(flagN p ^^ flagV p)
/-- LT -/
def condLt (p : Word) : Bool := flagN p ^^ flagV p
/-- GT -/
def condGt (p : Word) : Bool := !(flagZ p || (flagN p ^^ flagV p))
/-- LE -/
def condLe (p : Word) : Bool := flagZ p || (flagN p ^^ flagV p)
/-- PL -/
def condPl (p : Word) : Bool := !flagN p
/-- MI -/
def condMi (p : Word) : Bool := flagN p
/-- HI -/
def condHi (p : Word) : Bool := !(flagC p || flagZ p)
/-- LOS -/
def condLos (p : Word) : Bool := flagC p || flagZ p
/-- VC -/
def condVc (p : Word) : Bool := !flagV p
/-- VS -/
def condVs (p : Word) : Bool := flagV p
/-- CC, HIS -/
def condCc (p : Word) : Bool := !flagC p
/-- CS, LO -/
def condCs (p : Word) : Bool := flagC p

end Sys2Proof.Machine
end

