-- ==== Sys2Proof/Machine/Ops.lean ====
section
/-! DEFINITION. The named operations over memory and registers, one bus access (spec/20_memory.md), the stack
(spec/00_scope.md R14), taking an exception and returning from one (spec/60_exceptions.md R475, R476, R530;
spec/46_system_instructions.md R422), the abort of an instruction or a sequence (spec/40_dispatch_loop.md R158,
spec/60_exceptions.md R503) and its completion (R157). -/

namespace Sys2Proof.Machine

/-! ### Memory -/

/-- What an address that memory does not list reads as (DESIGN CHOICE, log 5; unsafe). -/
def unlistedByte : Byte := 0

/-- The byte at a physical address. -/
def Memory.read : Memory → Nat → Byte
  | [], _ => unlistedByte
  | (k, v) :: m, a => if k = a then v else Memory.read m a

/-- Put a cell before a list, unless an unlisted address reads the same. -/
def Memory.cons (a : Nat) (v : Byte) (m : Memory) : Memory :=
  if v = unlistedByte then m else (a, v) :: m

/-- Write one byte, keeping the canonical form. -/
def Memory.write : Memory → Nat → Byte → Memory
  | [], a, v => Memory.cons a v []
  | (k, w) :: m, a, v =>
    if a < k then Memory.cons a v ((k, w) :: m)
    else if a = k then Memory.cons a v m
    else (k, w) :: Memory.write m a v

/-- Every address listed is above `a`. -/
def Memory.above (a : Nat) (m : Memory) : Bool := m.all fun c => decide (a < c.1)

/-- The canonical form: addresses strictly rise and no cell holds what an unlisted address reads. -/
def Memory.wf : Memory → Bool
  | [] => true
  | (k, v) :: m => v != unlistedByte && Memory.above k m && Memory.wf m

/-- The physical address of a logical one: the first window that holds it, else the address itself
(R85; log 9). -/
def translate : List Window → Nat → Nat
  | [], a => a
  | w :: ws, a => if w.base ≤ a ∧ a < w.base + w.size then w.target + (a - w.base) else translate ws a

/-- The windows of the bank the mapper is switched to. -/
def State.windows (s : State) : List Window :=
  match s.bank with
  | .nonpriv => s.params.mapper.nonpriv
  | .priv => s.params.mapper.priv

/-- The physical address that a logical address has now. -/
def State.phys (s : State) (a : Word) : Nat := translate s.windows a.toNat

/-- The memory byte at a logical address. -/
def State.memByte (s : State) (a : Word) : Byte := s.mem.read (s.phys a)

/-- What plain memory answers to a read; a word is `MemByte(a+1) ++ MemByte(a)` (R71, R72), each byte mapped by
itself (DESIGN CHOICE, log 27). -/
def State.memValue (s : State) (sz : Size) (a : Word) : Word :=
  match sz with
  | .byte => (s.memByte a).zeroExtend 16
  | .word => joinBytes (s.memByte (a + 1)) (s.memByte a)

/-- What plain memory makes of a write (R71, R72). -/
def State.storeMem (s : State) (sz : Size) (a v : Word) : State :=
  match sz with
  | .byte => { s with mem := s.mem.write (s.phys a) (lowByte v) }
  | .word => { s with mem := (s.mem.write (s.phys a) (lowByte v)).write (s.phys (a + 1)) (highByte v) }

/-- The physical bytes a store to a logical address touches (R71, R72). -/
def State.storeBytes (s : State) (sz : Size) (a : Word) : List Nat :=
  match sz with
  | .byte => [s.phys a]
  | .word => [s.phys a, s.phys (a + 1)]

/-! ### Registers -/

/-- Read a register of the file (R30). -/
def Regs.get (g : Regs) : Reg → Word
  | .r0 => g.r0 | .r1 => g.r1 | .r2 => g.r2 | .r3 => g.r3
  | .r4 => g.r4 | .r5 => g.r5 | .sp => g.sp | .pc => g.pc

/-- Write a register of the file; no register is hardwired (R30). -/
def Regs.set (g : Regs) (r : Reg) (v : Word) : Regs :=
  match r with
  | .r0 => { g with r0 := v } | .r1 => { g with r1 := v } | .r2 => { g with r2 := v } | .r3 => { g with r3 := v }
  | .r4 => { g with r4 := v } | .r5 => { g with r5 := v } | .sp => { g with sp := v } | .pc => { g with pc := v }

/-- The value of a register. -/
def State.reg (s : State) (r : Reg) : Word := s.regs.get r

/-- The state with a register written. -/
def State.setReg (s : State) (r : Reg) (v : Word) : State := { s with regs := s.regs.set r v }

/-- The state with the PSW replaced. -/
def State.setPsw (s : State) (p : Word) : State := { s with psw := p }

/-- Registers and PSW now. -/
def State.snapshot (s : State) : Snapshot := ⟨s.regs, s.psw⟩

/-- Note a call to the environment. -/
def State.record (s : State) (c : EnvCall) : State := { s with calls := c :: s.calls }

/-! ### Actions: what an instruction or a sequence does, until it ends or is stopped -/

/-- Why an action stops before its end: a bus failure (R76), or a vector that is not a multiple of 4 (R478). -/
inductive Stop
  | busFailure
  | misaligned (vec : Word)
deriving DecidableEq, Repr

/-- A computation over the state that ends with a value or is stopped; both ways it gives the state it reached. -/
abbrev Act (α : Type) := EStateM Stop State α

/-- Look at the state. -/
def look {α : Type} (f : State → α) : Act α := fun s => .ok (f s) s

/-- Change the state. -/
def update (f : State → State) : Act Unit := fun s => .ok () (f s)

/-- `R[i]`. -/
def getReg (r : Reg) : Act Word := look fun s => s.reg r

/-- `R[i] <- v`. -/
def setReg (r : Reg) (v : Word) : Act Unit := update fun s => s.setReg r v

/-! ### Bus accesses -/

/-- A bus failure: pending flag, count, stop (R76). -/
def busFailure {α : Type} : Act α := fun s =>
  .error .busFailure { s with busFaultPending := true, busFaultCount := s.busFaultCount + 1 }

/-- The answer the next access gets; plain memory answers where none is waiting (log 6). -/
def State.nextAnswer (s : State) : BusAnswer := s.answers.headD .memory

/-- The state after a call to the bus: the call noted and its answer used up. -/
def State.afterCall (s : State) (c : EnvCall) : State := { s.record c with answers := s.answers.tail }

/-- The environment's `read(a, n)`: data or failure (R76, R81). -/
def busRead (sz : Size) (a : Word) : Act Word := fun s =>
  let t := s.afterCall (.read a sz)
  match s.nextAnswer with
  | .memory => .ok (t.memValue sz a) t
  | .device v => .ok (sz.trim v) t
  | .fail => busFailure t

/-- The environment's `write(a, n, v)`; a failed write changes no memory (R76). -/
def busWrite (sz : Size) (a v : Word) : Act Unit := fun s =>
  let t := s.afterCall (.write a sz (sz.trim v))
  match s.nextAnswer with
  | .memory => .ok () (t.storeMem sz a v)
  | .device _ => .ok () t
  | .fail => busFailure t

/-- `addr & 0xFFFE` (R74). -/
def alignWord (a : Word) : Word := a &&& 0xFFFE

/-- The access is a word access at an odd address under ODD_WORD_POLICY = FAULT (R74). -/
def State.oddFails (s : State) (sz : Size) (a : Word) : Bool :=
  sz == .word && a.getLsbD 0 && s.params.oddWord == .fault

/-- The address an access goes to: a byte's own, a word's even address (R71, R72). -/
def accessAddr (sz : Size) (a : Word) : Word :=
  match sz with
  | .byte => a
  | .word => alignWord a

/-- `MemRead(addr, n)` (R71, R72, R74). Under FAULT the core itself fails an odd word access (DEDUCED, log 15). -/
def memRead (sz : Size) (a : Word) : Act Word := fun s =>
  if s.oddFails sz a then busFailure s else busRead sz (accessAddr sz a) s

/-- `MemWrite(addr, n, v)` (R71, R72, R74). -/
def memWrite (sz : Size) (a v : Word) : Act Unit := fun s =>
  if s.oddFails sz a then busFailure s else busWrite sz (accessAddr sz a) v s

/-- `fetch_word()`, also the opcode fetch: align PC, read, step PC by 2 (spec/41_addressing_modes.md R183,
spec/40_dispatch_loop.md R154). -/
def fetchWord : Act Word := do
  update fun s => s.setReg .pc (alignWord (s.reg .pc))
  let a ← getReg .pc
  let w ← memRead .word a
  update fun s => s.setReg .pc (s.reg .pc + 2)
  pure w

/-- `Push(v)` (R14). -/
def push (v : Word) : Act Unit := do
  update fun s => s.setReg .sp (s.reg .sp - 2)
  let a ← getReg .sp
  memWrite .word a v

/-- `Pop()` (R14). -/
def pop : Act Word := do
  let a ← getReg .sp
  let v ← memRead .word a
  update fun s => s.setReg .sp (s.reg .sp + 2)
  pure v

/-! ### The PSW and the bank -/

/-- The machine is the EXTENDED variant. -/
def State.extended (s : State) : Bool := s.params.variant == .extended

/-- A PSW write: `v & PSW_IMPL` (R41). -/
def State.writePsw (s : State) (v : Word) : State := s.setPsw (v &&& pswImpl s.params.variant)

/-- The bank of a mode bit (R85). -/
def bankOf (h : Bool) : Bank := if h then .priv else .nonpriv

/-- `bank_switch(b)` (R85). -/
def State.bankSwitch (s : State) (b : Bank) : State := { s.record (.bankSwitch b) with bank := b }

/-- EXTENDED: `bank_switch` for the mode bit now, if it differs from the one before; BASE never calls it
(R85, R541). -/
def State.bankFollows (s : State) (before : Bool) : State :=
  if s.extended && flagH s.psw != before then s.bankSwitch (bankOf (flagH s.psw)) else s

/-- Restore registers and PSW from a snapshot, with the bank call if that changes H (R158, R503, R541). -/
def State.restore (s : State) (snap : Snapshot) : State :=
  { s with regs := snap.regs, psw := snap.psw }.bankFollows (flagH s.psw)

/-! ### Taking an exception -/

/-- Stop unless the vector is a multiple of 4 (R478). -/
def checkVector (vec : Word) : Act Unit := fun s =>
  if vec &&& 3 = 0 then .ok () s else .error (.misaligned vec) s

/-- The mode change at the entry of a vectored trap: EXTENDED clears H and calls `bank_switch(NONPRIV)` always;
BASE has no mode (R475, R476). -/
def State.leavePrivileged (s : State) : State :=
  if s.extended then (s.setPsw (withH false s.psw)).bankSwitch .nonpriv else s

/-- The install of the new PC and PSW that ends a sequence: PC, PSW, wait state (R475, R476, R477). In EXTENDED
a new PSW with H = 1 calls `bank_switch(PRIV)`; H was 0 since `leavePrivileged`. -/
def State.install (s : State) (newPc newPsw : Word) : State :=
  let t := (s.setReg .pc newPc).writePsw newPsw
  let u := if t.extended && flagH t.psw then t.bankSwitch .priv else t
  { u with waitState := false }

/-- The trap sequence of the variant, with `middle` run between the vector reads and the pushes
(R475, R476; R527 needs `middle`). -/
def trapSequence (vec : Word) (middle : State → State) : Act Unit := do
  checkVector vec
  update State.leavePrivileged
  let newPc ← memRead .word vec
  let newPsw ← memRead .word (vec + 2)
  update middle
  let oldPsw ← look State.psw
  push oldPsw
  let oldPc ← getReg .pc
  push oldPc
  update fun s => s.install newPc newPsw

/-- `trap(vec)`: taking an exception, for every class but the halt path (R475, R476). -/
def trap (vec : Word) : Act Unit := trapSequence vec id

/-- The mode change at the entry of the halt path: H is set and `bank_switch(PRIV)` called, always (R530). -/
def State.enterHalt (s : State) : State := (s.setPsw (withH true s.psw)).bankSwitch .priv

/-- The install that ends the halt path: H stays 1 (R530). -/
def State.installHalt (s : State) (newPc newPsw : Word) : State :=
  let t := (s.setReg .pc newPc).writePsw newPsw
  { t.setPsw (withH true t.psw) with waitState := false }

/-- `halt_path()` (R530). -/
def haltPath : Act Unit := do
  let vec ← look fun s => s.params.haltVector
  checkVector vec
  let oldPsw ← look State.psw
  update State.enterHalt
  let newPc ← memRead .word vec
  let newPsw ← memRead .word (vec + 2)
  push oldPsw
  let oldPc ← getReg .pc
  push oldPc
  update fun s => s.installHalt newPc newPsw

/-- The return from an exception: pop PC, then PSW, then follow the mode bit (R422, R541, R545). -/
def trapReturn : Act Unit := do
  let newPc ← pop
  let newPsw ← pop
  update fun s => ((s.setReg .pc newPc).writePsw newPsw).bankFollows (flagH s.psw)

/-! ### The end of an instruction -/

/-- How an instruction completes: RTI and RTT have their own trace rule (R157). -/
inductive Completion
  | ordinary | rti | rtt
deriving DecidableEq, Repr

/-- The PC an abort leaves: the start, or the address after the opcode word (FAULT_PC_POLICY, R158). -/
def abortPc (policy : FaultPcPolicy) (startPc : Word) : Word :=
  match policy with
  | .instrStart => startPc
  | .afterFetch => alignWord startPc + 2

/-- The abort of an instruction whose opcode fetch succeeded (R158). -/
def State.abort (s : State) : State :=
  let t := s.restore s.start
  t.setReg .pc (abortPc s.params.faultPc s.start.regs.pc)

/-- The abort of an instruction whose opcode fetch failed: PC is the start under either policy (R158). -/
def State.abortFetch (s : State) : State := s.restore s.start

/-- `complete(ins, t0)` (R157). -/
def State.complete (s : State) (how : Completion) : State :=
  let sets :=
    match how with
    | .ordinary => flagT s.start.psw
    | .rti => flagT s.start.psw || flagT s.psw
    | .rtt => false
  { s with tracePending := s.tracePending || sets }

/-- Run an instruction's rule on a state whose opcode word has been fetched: complete it, abort it, or stop
(R152, R156 to R158, R478). -/
def perform (how : Completion) (rule : Act Unit) (s : State) : Host.Outcome State Fault Refusal :=
  match rule s with
  | .ok _ t => .next (t.complete how)
  | .error .busFailure t => .next t.abort
  | .error (.misaligned vec) _ => .fault (.vectorMisaligned vec)

/-! ### Reset of a running machine -/

/-- `reset(RESET_BANK)` between two steps: the core's state as after power-on, memory and the environment untouched
(R570, R571). R0 to R5, PPC and PPSW get the reset state's values (DESIGN CHOICE, log 1, 2, 22; unsafe). -/
def State.coreReset (s : State) (bank : BitVec 3) : State :=
  let regs := resetRegs s.params bank
  let t : State :=
    { s with
      regs := regs, psw := Config.initialPsw, ppc := 0, ppsw := 0
      waitState := false, tracePending := false
      busFaultPending := false, busFaultCount := 0, doubleFault := false
      start := ⟨regs, Config.initialPsw⟩ }
  if s.extended then
    { t with eventLatch := false, powerFailReq := false, virq := false }.bankSwitch .nonpriv
  else t

end Sys2Proof.Machine
end

