-- ==== Sys2Proof/Machine/Arbiter.lean ====
section
/-! DEFINITION. The two interrupt arbiters, the traps they take at an instruction boundary, and the daisy chain
(spec/60_exceptions.md R470 to R530). -/

namespace Sys2Proof.Machine

/-- What a consultation of the arbiter gives: a trap was taken (or its sequence aborted, log 14), no trap, or the
fault of R478. -/
inductive Arbitration
  | taken (s : State)
  | idle (s : State)
  | fault (r : Fault)
deriving DecidableEq, Repr

/-- The abort of a trap sequence at a boundary: registers and PSW as before it, EVENT_LATCH as before it, WAIT_STATE
kept, memory writes kept (R503). -/
def State.abortSequence (s before : State) : State :=
  { s.restore before.snapshot with eventLatch := before.eventLatch }

/-- Take a trap at a boundary: `after` consumes the request once the sequence is complete; an aborted sequence
consumes nothing (R503). -/
def takeAtBoundary (sequence : Act Unit) (after : State → State) (s : State) : Arbitration :=
  match sequence s with
  | .ok _ t => .taken (after t)
  | .error .busFailure t => .taken (t.abortSequence s)
  | .error (.misaligned vec) _ => .fault (.vectorMisaligned vec)

/-- The bus-fault trap; a bus failure in its own sequence is the double fault (R502, R504; log 16). -/
def takeBusFault (s : State) : Arbitration :=
  let s0 := { s with busFaultPending := false }
  match trap Config.vecBusFault s0 with
  | .ok _ t => .taken t
  | .error .busFailure t => .taken { t.abortSequence s0 with doubleFault := true }
  | .error (.misaligned vec) _ => .fault (.vectorMisaligned vec)

/-- The trace trap: the latch is cleared after a complete sequence (R511). -/
def takeTrace (s : State) : Arbitration :=
  takeAtBoundary (trap Config.vecTrace) (fun t => { t with tracePending := false }) s

/-- The environment's answer to the next `irq_ack` call (R482; log 7). -/
def State.nextIrqAnswer (s : State) : IrqAnswer := s.irqAnswers.headD ⟨none, none⟩

/-- `irq_ack(IRQ_STATE)`: the call noted, its answer used up, the lines as the environment leaves them (R482). -/
def State.irqAck (s : State) : State :=
  { s.record (.irqAck s.irqState) with
    irqAnswers := s.irqAnswers.tail
    irqState := s.nextIrqAnswer.irqAfter.getD s.irqState }

/-- `BASE_IRQ_TABLE[IRQ_STATE]` (R481). -/
def State.irqEntry (s : State) : Option IrqEntry := s.params.irqTable.get s.irqState.toFin

/-- `arbitrate_base()` (R480). -/
def arbitrateBase (s : State) : Arbitration :=
  if s.busFaultPending then takeBusFault s
  else if s.params.baseTrace && s.tracePending then takeTrace s
  else
    match s.irqEntry with
    | none => .idle s
    | some e =>
      if priority s.psw < e.priority then
        takeAtBoundary (trap (s.nextIrqAnswer.vector.getD e.vector)) id s.irqAck
      else .idle s

/-- The walk of the daisy chain from position `k`: the vector, the peripherals after it, and the positions asked to
acknowledge, in order (R528). One that declines, and one whose answer is 0, the sentinel that is no vector (R526), stay
pending: a call that takes no trap changes nothing the arbiter reads but VIRQ (R547; DEDUCED, log 8). -/
def walkChain : List Peripheral → Nat → Option Word × List Peripheral × List Nat
  | [], _ => (none, [], [])
  | p :: ps, k =>
    if p.pending then
      match p.answer with
      | some v => (some v, { p with pending := v == 0 } :: ps, [k])
      | none =>
        let rest := walkChain ps (k + 1)
        (rest.1, p :: rest.2.1, k :: rest.2.2)
    else
      let rest := walkChain ps (k + 1)
      (rest.1, p :: rest.2.1, rest.2.2)

/-- `ack_chain()`: its answer (R528). -/
def State.chainVector (s : State) : Option Word := (walkChain s.chain 0).1

/-- `ack_chain()`: the chain after it, each `ack` call noted (R528). -/
def State.ackChain (s : State) : State :=
  let w := walkChain s.chain 0
  { s with chain := w.2.1, calls := (w.2.2.map EnvCall.chainAck).reverse ++ s.calls }

/-- `vectored_interrupt(v)`: the event latch is cleared between the vector reads and the pushes (R527). -/
def vectoredInterrupt (v : Word) : Act Unit :=
  trapSequence v fun s => { s with eventLatch := false }

/-- Steps 6 and 7 of the ladder: the vectored device request (R525 to R528). -/
def arbitrateDevice (s : State) : Arbitration :=
  if s.virq then
    match s.chainVector with
    | none => .idle { s.ackChain with virq := false }
    | some v =>
      if v = 0 then .idle { s.ackChain with virq := false }
      else takeAtBoundary (vectoredInterrupt v) id s.ackChain
  else .idle s

/-- `arbitrate_ext()`, the ladder (R520 to R525). -/
def arbitrateExt (s : State) : Arbitration :=
  if s.busFaultPending then takeBusFault s
  else if s.tracePending then takeTrace s
  else if s.haltLine && !flagH s.psw then takeAtBoundary haltPath id s
  else if priority s.psw = 7 then .idle s
  else if s.powerFailReq && !flagH s.psw then
    takeAtBoundary (trap Config.vecPowerFail) (fun t => { t with powerFailReq := false }) s
  else if s.eventLatch then
    takeAtBoundary (trap Config.vecEvent) (fun t => { t with eventLatch := false }) s
  else arbitrateDevice s

/-- `arbitrate()` of the variant (R470). -/
def arbitrate (s : State) : Arbitration :=
  match s.params.variant with
  | .base => arbitrateBase s
  | .extended => arbitrateExt s

end Sys2Proof.Machine
end

