-- ==== Sys2Proof/Machine/Operands.lean ====
section
/-! DEFINITION. The addressing-mode resolver (spec/41_addressing_modes.md R180 to R205) and the shapes in which
instructions use it: source read, destination read and written, written only, read only. -/

namespace Sys2Proof.Machine

/-- A location: a register or a memory address (R180). -/
inductive Loc
  | reg (r : Reg)
  | mem (addr : Word)
deriving DecidableEq, Repr

/-- `step(r, size)`: 1 for a byte through R0 to R5, else 2 (R186). -/
def stepSize (r : Reg) (sz : Size) : Word :=
  match sz, r with
  | .word, _ => 2
  | .byte, .sp => 2
  | .byte, .pc => 2
  | .byte, _ => 1

/-- Autoincrement: the register before, and the step (R192, R193). -/
def stepUp (r : Reg) (by_ : Word) : Act Word := do
  let a ← getReg r
  setReg r (a + by_)
  pure a

/-- Autodecrement: the step, and the register after (R194, R195). -/
def stepDown (r : Reg) (by_ : Word) : Act Word := do
  let a ← getReg r
  setReg r (a - by_)
  getReg r

/-- The index word plus the register, the register read after the fetch (R196, R197). -/
def indexed (r : Reg) : Act Word := do
  let x ← fetchWord
  let b ← getReg r
  pure (x + b)

/-- `resolve(m, r, size)`: the location and the mode's side effects, at once (R184, R190 to R197). Deferred modes
step by 2 and read a word pointer for either size (R186, R199). -/
def resolve (sz : Size) (o : Operand) : Act Loc :=
  match o.mode with
  | .register => pure (.reg o.reg)
  | .deferred => do
    let a ← getReg o.reg
    pure (.mem a)
  | .autoInc => do
    let a ← stepUp o.reg (stepSize o.reg sz)
    pure (.mem a)
  | .autoIncDeferred => do
    let p ← stepUp o.reg 2
    let a ← memRead .word p
    pure (.mem a)
  | .autoDec => do
    let a ← stepDown o.reg (stepSize o.reg sz)
    pure (.mem a)
  | .autoDecDeferred => do
    let p ← stepDown o.reg 2
    let a ← memRead .word p
    pure (.mem a)
  | .index => do
    let a ← indexed o.reg
    pure (.mem a)
  | .indexDeferred => do
    let p ← indexed o.reg
    let a ← memRead .word p
    pure (.mem a)

/-- `LocRead(loc, size)` (R181); a byte is carried in bits 7:0. How wide an immediate is read: `readResolved`. -/
def locRead (sz : Size) : Loc → Act Word
  | .reg r => look fun s => sz.trim (s.reg r)
  | .mem a => memRead sz a

/-- `LocWrite(loc, size, v)`; a byte written to a register keeps bits 15:8 (R181). -/
def locWrite (sz : Size) (l : Loc) (v : Word) : Act Unit :=
  match sz, l with
  | .word, .reg r => setReg r v
  | .byte, .reg r => update fun s => s.setReg r (joinBytes (highByte (s.reg r)) (lowByte v))
  | sz, .mem a => memWrite sz a v

/-- The byte store of MOVB and MFPS: a register gets the sign-extended byte (R251, R342). -/
def storeExtended (l : Loc) (v : Word) : Act Unit :=
  match l with
  | .reg r => setReg r (sext8 (lowByte v))
  | .mem a => memWrite .byte a v

/-- The specifier is an immediate: mode 2 on PC (R200). -/
def isImmediate (o : Operand) : Bool := o == ⟨.autoInc, .pc⟩

/-- Read the location a specifier resolved to, by `LocRead` (R181), but for an immediate: that is a word of the
instruction stream, read 2 bytes wide at either size, and a byte operand is its low byte (R183, R186, R200;
spec/20_memory.md R78, spec/30_encoding.md R101). That these three decide the width against the `MemRead(a, 1)` of R181
for a byte: DEDUCED, log 28. -/
def readResolved (sz : Size) (o : Operand) (l : Loc) : Act Word :=
  if isImmediate o then do
    let w ← locRead .word l
    pure (sz.trim w)
  else locRead sz l

/-- Resolve a source and read it (R198). -/
def readOperand (sz : Size) (o : Operand) : Act Word := do
  let l ← resolve sz o
  readResolved sz o l

/-- Resolve once, read once, write once, then the flags (R361). -/
def readModifyWrite (sz : Size) (o : Operand) (f : Word → Word → Word × Word) : Act Unit := do
  let l ← resolve sz o
  let x ← readResolved sz o l
  let p ← look State.psw
  locWrite sz l (f x p).1
  update fun s => s.setPsw (f x p).2

/-- Resolve and write without a read, then the flags (R361). -/
def writeOnly (sz : Size) (o : Operand) (f : Word → Word × Word) : Act Unit := do
  let l ← resolve sz o
  let p ← look State.psw
  locWrite sz l (f p).1
  update fun s => s.setPsw (f p).2

/-- Resolve and read without a write, then the flags (R361). -/
def readOnly (sz : Size) (o : Operand) (f : Word → Word → Word) : Act Unit := do
  let x ← readOperand sz o
  update fun s => s.setPsw (f x s.psw)

/-- A source is read, then a destination is read, modified and written (R198). -/
def combine (sz : Size) (src dst : Operand) (f : Word → Word → Word → Word × Word) : Act Unit := do
  let v ← readOperand sz src
  readModifyWrite sz dst (f v)

/-- A source is read, then a destination is read; only flags come of it (R198, R252, R254). -/
def readBoth (sz : Size) (src dst : Operand) (f : Word → Word → Word → Word) : Act Unit := do
  let v ← readOperand sz src
  readOnly sz dst (f v)

end Sys2Proof.Machine
end

