-- ==== Sys2Proof/Machine/DoubleOperand.lean ====
section
/-! DEFINITION. The double-operand instructions (spec/43_double_operand.md). -/

namespace Sys2Proof.Machine

/-- MOV: the destination is not read (R250). -/
def execMov (src dst : Operand) (s : State) : Host.Outcome State Fault Refusal :=
  perform .ordinary (do
    let v ← readOperand .word src
    writeOnly .word dst fun p => (v, logicFlags .word v p)) s

/-- MOVB: a register destination is sign-extended into (R251). -/
def execMovb (src dst : Operand) (s : State) : Host.Outcome State Fault Refusal :=
  perform .ordinary (do
    let v ← readOperand .byte src
    let l ← resolve .byte dst
    storeExtended l v
    update fun s => s.setPsw (logicFlags .byte v s.psw)) s

/-- CMP (R252). -/
def execCmp (src dst : Operand) (s : State) : Host.Outcome State Fault Refusal :=
  perform .ordinary (readBoth .word src dst (cmpFlags .word)) s

/-- CMPB (R253). -/
def execCmpb (src dst : Operand) (s : State) : Host.Outcome State Fault Refusal :=
  perform .ordinary (readBoth .byte src dst (cmpFlags .byte)) s

/-- BIT (R254). -/
def execBit (src dst : Operand) (s : State) : Host.Outcome State Fault Refusal :=
  perform .ordinary (readBoth .word src dst (bitFlags .word)) s

/-- BITB (R255). -/
def execBitb (src dst : Operand) (s : State) : Host.Outcome State Fault Refusal :=
  perform .ordinary (readBoth .byte src dst (bitFlags .byte)) s

/-- BIC (R256). -/
def execBic (src dst : Operand) (s : State) : Host.Outcome State Fault Refusal :=
  perform .ordinary (combine .word src dst (bicResult .word)) s

/-- BICB (R257). -/
def execBicb (src dst : Operand) (s : State) : Host.Outcome State Fault Refusal :=
  perform .ordinary (combine .byte src dst (bicResult .byte)) s

/-- BIS (R258). -/
def execBis (src dst : Operand) (s : State) : Host.Outcome State Fault Refusal :=
  perform .ordinary (combine .word src dst (bisResult .word)) s

/-- BISB (R259). -/
def execBisb (src dst : Operand) (s : State) : Host.Outcome State Fault Refusal :=
  perform .ordinary (combine .byte src dst (bisResult .byte)) s

/-- ADD (R260). -/
def execAdd (src dst : Operand) (s : State) : Host.Outcome State Fault Refusal :=
  perform .ordinary (combine .word src dst addResult) s

/-- SUB (R261). -/
def execSub (src dst : Operand) (s : State) : Host.Outcome State Fault Refusal :=
  perform .ordinary (combine .word src dst subResult) s

/-- XOR: the register is read before the destination is resolved (R262). -/
def execXor (r : Reg) (dst : Operand) (s : State) : Host.Outcome State Fault Refusal :=
  perform .ordinary (do
    let v ← getReg r
    readModifyWrite .word dst (xorResult v)) s

end Sys2Proof.Machine
end

