-- ==== Sys2Proof/Machine/SingleOperand.lean ====
section
/-! DEFINITION. The single-operand instructions (spec/44_single_operand.md). -/

namespace Sys2Proof.Machine

/-- CLR (R300). -/
def execClr (dst : Operand) (s : State) : Host.Outcome State Fault Refusal :=
  perform .ordinary (writeOnly .word dst clrResult) s

/-- CLRB (R301). -/
def execClrb (dst : Operand) (s : State) : Host.Outcome State Fault Refusal :=
  perform .ordinary (writeOnly .byte dst clrResult) s

/-- COM (R302). -/
def execCom (dst : Operand) (s : State) : Host.Outcome State Fault Refusal :=
  perform .ordinary (readModifyWrite .word dst (comResult .word)) s

/-- COMB (R303). -/
def execComb (dst : Operand) (s : State) : Host.Outcome State Fault Refusal :=
  perform .ordinary (readModifyWrite .byte dst (comResult .byte)) s

/-- INC (R304). -/
def execInc (dst : Operand) (s : State) : Host.Outcome State Fault Refusal :=
  perform .ordinary (readModifyWrite .word dst (incResult .word)) s

/-- INCB (R305). -/
def execIncb (dst : Operand) (s : State) : Host.Outcome State Fault Refusal :=
  perform .ordinary (readModifyWrite .byte dst (incResult .byte)) s

/-- DEC (R306). -/
def execDec (dst : Operand) (s : State) : Host.Outcome State Fault Refusal :=
  perform .ordinary (readModifyWrite .word dst (decResult .word)) s

/-- DECB (R307). -/
def execDecb (dst : Operand) (s : State) : Host.Outcome State Fault Refusal :=
  perform .ordinary (readModifyWrite .byte dst (decResult .byte)) s

/-- NEG (R308). -/
def execNeg (dst : Operand) (s : State) : Host.Outcome State Fault Refusal :=
  perform .ordinary (readModifyWrite .word dst (negResult .word)) s

/-- NEGB (R309). -/
def execNegb (dst : Operand) (s : State) : Host.Outcome State Fault Refusal :=
  perform .ordinary (readModifyWrite .byte dst (negResult .byte)) s

/-- ADC (R310). -/
def execAdc (dst : Operand) (s : State) : Host.Outcome State Fault Refusal :=
  perform .ordinary (readModifyWrite .word dst (adcResult .word)) s

/-- ADCB (R311). -/
def execAdcb (dst : Operand) (s : State) : Host.Outcome State Fault Refusal :=
  perform .ordinary (readModifyWrite .byte dst (adcResult .byte)) s

/-- SBC (R312). -/
def execSbc (dst : Operand) (s : State) : Host.Outcome State Fault Refusal :=
  perform .ordinary (readModifyWrite .word dst (sbcResult .word)) s

/-- SBCB (R313). -/
def execSbcb (dst : Operand) (s : State) : Host.Outcome State Fault Refusal :=
  perform .ordinary (readModifyWrite .byte dst (sbcResult .byte)) s

/-- TST (R314). -/
def execTst (dst : Operand) (s : State) : Host.Outcome State Fault Refusal :=
  perform .ordinary (readOnly .word dst (tstFlags .word)) s

/-- TSTB (R315). -/
def execTstb (dst : Operand) (s : State) : Host.Outcome State Fault Refusal :=
  perform .ordinary (readOnly .byte dst (tstFlags .byte)) s

/-- ROR (R316). -/
def execRor (dst : Operand) (s : State) : Host.Outcome State Fault Refusal :=
  perform .ordinary (readModifyWrite .word dst (rorResult .word)) s

/-- RORB (R317). -/
def execRorb (dst : Operand) (s : State) : Host.Outcome State Fault Refusal :=
  perform .ordinary (readModifyWrite .byte dst (rorResult .byte)) s

/-- ROL (R318). -/
def execRol (dst : Operand) (s : State) : Host.Outcome State Fault Refusal :=
  perform .ordinary (readModifyWrite .word dst (rolResult .word)) s

/-- ROLB (R319). -/
def execRolb (dst : Operand) (s : State) : Host.Outcome State Fault Refusal :=
  perform .ordinary (readModifyWrite .byte dst (rolResult .byte)) s

/-- ASR (R320). -/
def execAsr (dst : Operand) (s : State) : Host.Outcome State Fault Refusal :=
  perform .ordinary (readModifyWrite .word dst (asrResult .word)) s

/-- ASRB (R321). -/
def execAsrb (dst : Operand) (s : State) : Host.Outcome State Fault Refusal :=
  perform .ordinary (readModifyWrite .byte dst (asrResult .byte)) s

/-- ASL (R322). -/
def execAsl (dst : Operand) (s : State) : Host.Outcome State Fault Refusal :=
  perform .ordinary (readModifyWrite .word dst (aslResult .word)) s

/-- ASLB (R323). -/
def execAslb (dst : Operand) (s : State) : Host.Outcome State Fault Refusal :=
  perform .ordinary (readModifyWrite .byte dst (aslResult .byte)) s

/-- SWAB (R330). -/
def execSwab (dst : Operand) (s : State) : Host.Outcome State Fault Refusal :=
  perform .ordinary (readModifyWrite .word dst swabResult) s

/-- SXT (R331). -/
def execSxt (dst : Operand) (s : State) : Host.Outcome State Fault Refusal :=
  perform .ordinary (writeOnly .word dst sxtResult) s

/-- MTPS (R340). -/
def execMtps (src : Operand) (s : State) : Host.Outcome State Fault Refusal :=
  perform .ordinary (readOnly .byte src mtpsPsw) s

/-- MFPS: PSW[7:0] is read before the destination is resolved; a register destination is sign-extended into (R342). -/
def execMfps (dst : Operand) (s : State) : Host.Outcome State Fault Refusal :=
  perform .ordinary (do
    let v ← look fun s => Size.byte.trim s.psw
    let l ← resolve .byte dst
    storeExtended l v
    update fun s => s.setPsw (logicFlags .byte v s.psw)) s

end Sys2Proof.Machine
end

