-- ==== Sys2Proof/Machine/ControlTransfer.lean ====
section
/-! DEFINITION. Branches, SOB, JMP, JSR, RTS and MARK (spec/45_control_transfer.md), and the reserved-instruction
trap that JMP and JSR take for a register destination (spec/46_system_instructions.md R450). -/

namespace Sys2Proof.Machine

/-- Performing RESERVED: the reserved-instruction trap (R450). -/
def reservedTrap : Act Unit := trap Config.vecReserved

/-- A branch: `PC + 2 * sext_8(off)` where the test holds (R371). -/
def branchIf (cond : Word → Bool) (off : BitVec 8) : Act Unit :=
  update fun s => if cond s.psw then s.setReg .pc (s.reg .pc + 2 * sext8 off) else s

/-- BR (R390). -/
def execBr (off : BitVec 8) (s : State) : Host.Outcome State Fault Refusal :=
  perform .ordinary (branchIf condAlways off) s

/-- BNE (R391). -/
def execBne (off : BitVec 8) (s : State) : Host.Outcome State Fault Refusal :=
  perform .ordinary (branchIf condNe off) s

/-- BEQ (R392). -/
def execBeq (off : BitVec 8) (s : State) : Host.Outcome State Fault Refusal :=
  perform .ordinary (branchIf condEq off) s

/-- BGE (R393). -/
def execBge (off : BitVec 8) (s : State) : Host.Outcome State Fault Refusal :=
  perform .ordinary (branchIf condGe off) s

/-- BLT (R394). -/
def execBlt (off : BitVec 8) (s : State) : Host.Outcome State Fault Refusal :=
  perform .ordinary (branchIf condLt off) s

/-- BGT (R395). -/
def execBgt (off : BitVec 8) (s : State) : Host.Outcome State Fault Refusal :=
  perform .ordinary (branchIf condGt off) s

/-- BLE (R396). -/
def execBle (off : BitVec 8) (s : State) : Host.Outcome State Fault Refusal :=
  perform .ordinary (branchIf condLe off) s

/-- BPL (R397). -/
def execBpl (off : BitVec 8) (s : State) : Host.Outcome State Fault Refusal :=
  perform .ordinary (branchIf condPl off) s

/-- BMI (R398). -/
def execBmi (off : BitVec 8) (s : State) : Host.Outcome State Fault Refusal :=
  perform .ordinary (branchIf condMi off) s

/-- BHI (R399). -/
def execBhi (off : BitVec 8) (s : State) : Host.Outcome State Fault Refusal :=
  perform .ordinary (branchIf condHi off) s

/-- BLOS (R400). -/
def execBlos (off : BitVec 8) (s : State) : Host.Outcome State Fault Refusal :=
  perform .ordinary (branchIf condLos off) s

/-- BVC (R401). -/
def execBvc (off : BitVec 8) (s : State) : Host.Outcome State Fault Refusal :=
  perform .ordinary (branchIf condVc off) s

/-- BVS (R402). -/
def execBvs (off : BitVec 8) (s : State) : Host.Outcome State Fault Refusal :=
  perform .ordinary (branchIf condVs off) s

/-- BCC (R403). -/
def execBcc (off : BitVec 8) (s : State) : Host.Outcome State Fault Refusal :=
  perform .ordinary (branchIf condCc off) s

/-- BCS (R404). -/
def execBcs (off : BitVec 8) (s : State) : Host.Outcome State Fault Refusal :=
  perform .ordinary (branchIf condCs off) s

/-- SOB: decrement, and branch back unless the result is 0 (R383, R112). -/
def execSob (r : Reg) (nn : BitVec 6) (s : State) : Host.Outcome State Fault Refusal :=
  perform .ordinary (update fun s =>
    let t := s.setReg r (s.reg r - 1)
    if t.reg r = 0 then t else t.setReg .pc (t.reg .pc - 2 * nn.zeroExtend 16)) s

/-- JMP: the target is the effective address; a register destination takes the reserved-instruction trap and nothing
else (R380; DEDUCED, log 18). -/
def execJmp (dst : Operand) (s : State) : Host.Outcome State Fault Refusal :=
  perform .ordinary (do
    let l ← resolve .word dst
    match l with
    | .reg _ => reservedTrap
    | .mem a => setReg .pc a) s

/-- JSR: the link register is read before the push (R381; DEDUCED, log 18). -/
def execJsr (r : Reg) (dst : Operand) (s : State) : Host.Outcome State Fault Refusal :=
  perform .ordinary (do
    let l ← resolve .word dst
    match l with
    | .reg _ => reservedTrap
    | .mem a => do
      let v ← getReg r
      push v
      let link ← getReg .pc
      setReg r link
      setReg .pc a) s

/-- RTS (R382). -/
def execRts (r : Reg) (s : State) : Host.Outcome State Fault Refusal :=
  perform .ordinary (do
    let target ← getReg r
    setReg .pc target
    let v ← pop
    setReg r v) s

/-- MARK (R385, R113). -/
def execMark (nn : BitVec 6) (s : State) : Host.Outcome State Fault Refusal :=
  perform .ordinary (do
    update fun s => s.setReg .sp (s.reg .pc + 2 * nn.zeroExtend 16)
    let target ← getReg .r5
    setReg .pc target
    let v ← pop
    setReg .r5 v) s

end Sys2Proof.Machine
end

