-- ==== Sys2Proof/Machine/System.lean ====
section
/-! DEFINITION. Halt, wait, trap return, trap instructions, bus reset, the condition-code operators and the RESERVED
rows (spec/46_system_instructions.md). -/

namespace Sys2Proof.Machine

/-- HALT: BASE traps, EXTENDED enters the halt path (R420). -/
def execHalt (s : State) : Host.Outcome State Fault Refusal :=
  perform .ordinary (if s.extended then haltPath else trap Config.vecHaltInsn) s

/-- WAIT (R421). -/
def execWait (s : State) : Host.Outcome State Fault Refusal :=
  perform .ordinary (update fun s => { s with waitState := true }) s

/-- RTI (R422). -/
def execRti (s : State) : Host.Outcome State Fault Refusal :=
  perform .rti trapReturn s

/-- RTT: as RTI but for the trace latch (R426). -/
def execRtt (s : State) : Host.Outcome State Fault Refusal :=
  perform .rtt trapReturn s

/-- BPT (R423). -/
def execBpt (s : State) : Host.Outcome State Fault Refusal :=
  perform .ordinary (trap Config.vecTrace) s

/-- IOT (R424). -/
def execIot (s : State) : Host.Outcome State Fault Refusal :=
  perform .ordinary (trap Config.vecIot) s

/-- EMT: the core ignores the code (R427). -/
def execEmt (_ : BitVec 8) (s : State) : Host.Outcome State Fault Refusal :=
  perform .ordinary (trap Config.vecEmt) s

/-- TRAP: the core ignores the code (R428). -/
def execTrap (_ : BitVec 8) (s : State) : Host.Outcome State Fault Refusal :=
  perform .ordinary (trap Config.vecTrap) s

/-- RESET: one `bus_reset` event; the core's own state is unchanged (R425). What the environment does in answer comes
with the inputs of the next boundary (log 10). -/
def execReset (s : State) : Host.Outcome State Fault Refusal :=
  perform .ordinary (update fun s => s.record .busReset) s

/-! ### The condition-code operators (R440) -/

/-- The clear form: the masked flags become 0, through a PSW write (R440, R41). -/
def ccClear (mask : BitVec 4) : Act Unit := update fun s => s.writePsw (clearFlags mask s.psw)

/-- The set form: the masked flags become 1, through a PSW write (R440, R41). -/
def ccSet (mask : BitVec 4) : Act Unit := update fun s => s.writePsw (setFlags mask s.psw)

/-- NOP (R452). -/
def execNop (s : State) : Host.Outcome State Fault Refusal :=
  perform .ordinary (ccClear 0b0000) s

/-- CLC (R441). -/
def execClc (s : State) : Host.Outcome State Fault Refusal :=
  perform .ordinary (ccClear 0b0001) s

/-- CLV (R442). -/
def execClv (s : State) : Host.Outcome State Fault Refusal :=
  perform .ordinary (ccClear 0b0010) s

/-- CLVC (R440). -/
def execClvc (s : State) : Host.Outcome State Fault Refusal :=
  perform .ordinary (ccClear 0b0011) s

/-- CLZ (R443). -/
def execClz (s : State) : Host.Outcome State Fault Refusal :=
  perform .ordinary (ccClear 0b0100) s

/-- CLZC (R440). -/
def execClzc (s : State) : Host.Outcome State Fault Refusal :=
  perform .ordinary (ccClear 0b0101) s

/-- CLZV (R440). -/
def execClzv (s : State) : Host.Outcome State Fault Refusal :=
  perform .ordinary (ccClear 0b0110) s

/-- CLZVC (R440). -/
def execClzvc (s : State) : Host.Outcome State Fault Refusal :=
  perform .ordinary (ccClear 0b0111) s

/-- CLN (R444). -/
def execCln (s : State) : Host.Outcome State Fault Refusal :=
  perform .ordinary (ccClear 0b1000) s

/-- CLNC (R440). -/
def execClnc (s : State) : Host.Outcome State Fault Refusal :=
  perform .ordinary (ccClear 0b1001) s

/-- CLNV (R440). -/
def execClnv (s : State) : Host.Outcome State Fault Refusal :=
  perform .ordinary (ccClear 0b1010) s

/-- CLNVC (R440). -/
def execClnvc (s : State) : Host.Outcome State Fault Refusal :=
  perform .ordinary (ccClear 0b1011) s

/-- CLNZ (R440). -/
def execClnz (s : State) : Host.Outcome State Fault Refusal :=
  perform .ordinary (ccClear 0b1100) s

/-- CLNZC (R440). -/
def execClnzc (s : State) : Host.Outcome State Fault Refusal :=
  perform .ordinary (ccClear 0b1101) s

/-- CLNZV (R440). -/
def execClnzv (s : State) : Host.Outcome State Fault Refusal :=
  perform .ordinary (ccClear 0b1110) s

/-- CCC (R445). -/
def execCcc (s : State) : Host.Outcome State Fault Refusal :=
  perform .ordinary (ccClear 0b1111) s

/-- SE0 (R453). -/
def execSe0 (s : State) : Host.Outcome State Fault Refusal :=
  perform .ordinary (ccSet 0b0000) s

/-- SEC (R446). -/
def execSec (s : State) : Host.Outcome State Fault Refusal :=
  perform .ordinary (ccSet 0b0001) s

/-- SEV (R447). -/
def execSev (s : State) : Host.Outcome State Fault Refusal :=
  perform .ordinary (ccSet 0b0010) s

/-- SEVC (R440). -/
def execSevc (s : State) : Host.Outcome State Fault Refusal :=
  perform .ordinary (ccSet 0b0011) s

/-- SEZ (R448). -/
def execSez (s : State) : Host.Outcome State Fault Refusal :=
  perform .ordinary (ccSet 0b0100) s

/-- SEZC (R440). -/
def execSezc (s : State) : Host.Outcome State Fault Refusal :=
  perform .ordinary (ccSet 0b0101) s

/-- SEZV (R440). -/
def execSezv (s : State) : Host.Outcome State Fault Refusal :=
  perform .ordinary (ccSet 0b0110) s

/-- SEZVC (R440). -/
def execSezvc (s : State) : Host.Outcome State Fault Refusal :=
  perform .ordinary (ccSet 0b0111) s

/-- SEN (R449). -/
def execSen (s : State) : Host.Outcome State Fault Refusal :=
  perform .ordinary (ccSet 0b1000) s

/-- SENC (R440). -/
def execSenc (s : State) : Host.Outcome State Fault Refusal :=
  perform .ordinary (ccSet 0b1001) s

/-- SENV (R440). -/
def execSenv (s : State) : Host.Outcome State Fault Refusal :=
  perform .ordinary (ccSet 0b1010) s

/-- SENVC (R440). -/
def execSenvc (s : State) : Host.Outcome State Fault Refusal :=
  perform .ordinary (ccSet 0b1011) s

/-- SENZ (R440). -/
def execSenz (s : State) : Host.Outcome State Fault Refusal :=
  perform .ordinary (ccSet 0b1100) s

/-- SENZC (R440). -/
def execSenzc (s : State) : Host.Outcome State Fault Refusal :=
  perform .ordinary (ccSet 0b1101) s

/-- SENZV (R440). -/
def execSenzv (s : State) : Host.Outcome State Fault Refusal :=
  perform .ordinary (ccSet 0b1110) s

/-- SCC (R451). -/
def execScc (s : State) : Host.Outcome State Fault Refusal :=
  perform .ordinary (ccSet 0b1111) s

/-! ### The RESERVED rows (R450, R117) -/

/-- RESERVED, match 0x0007 mask 0xFFFF (R450). -/
def execReserved0007 (s : State) : Host.Outcome State Fault Refusal :=
  perform .ordinary reservedTrap s

/-- RESERVED, match 0x0008 mask 0xFFF8 (R450). -/
def execReserved0008 (_ : Word) (s : State) : Host.Outcome State Fault Refusal :=
  perform .ordinary reservedTrap s

/-- RESERVED, match 0x0010 mask 0xFFF0 (R450). -/
def execReserved0010 (_ : Word) (s : State) : Host.Outcome State Fault Refusal :=
  perform .ordinary reservedTrap s

/-- RESERVED, match 0x0020 mask 0xFFE0 (R450). -/
def execReserved0020 (_ : Word) (s : State) : Host.Outcome State Fault Refusal :=
  perform .ordinary reservedTrap s

/-- RESERVED, match 0x0088 mask 0xFFF8 (R450). -/
def execReserved0088 (_ : Word) (s : State) : Host.Outcome State Fault Refusal :=
  perform .ordinary reservedTrap s

/-- RESERVED, match 0x0090 mask 0xFFF0 (R450). -/
def execReserved0090 (_ : Word) (s : State) : Host.Outcome State Fault Refusal :=
  perform .ordinary reservedTrap s

/-- RESERVED, match 0x0D40 mask 0xFFC0 (R450). -/
def execReserved0D40 (_ : Word) (s : State) : Host.Outcome State Fault Refusal :=
  perform .ordinary reservedTrap s

/-- RESERVED, match 0x0D80 mask 0xFFC0 (R450). -/
def execReserved0D80 (_ : Word) (s : State) : Host.Outcome State Fault Refusal :=
  perform .ordinary reservedTrap s

/-- RESERVED, match 0x0E00 mask 0xFE00 (R450). -/
def execReserved0E00 (_ : Word) (s : State) : Host.Outcome State Fault Refusal :=
  perform .ordinary reservedTrap s

/-- RESERVED, match 0x7000 mask 0xF800 (R450). -/
def execReserved7000 (_ : Word) (s : State) : Host.Outcome State Fault Refusal :=
  perform .ordinary reservedTrap s

/-- RESERVED, match 0x7A00 mask 0xFE00 (R450). -/
def execReserved7A00 (_ : Word) (s : State) : Host.Outcome State Fault Refusal :=
  perform .ordinary reservedTrap s

/-- RESERVED, match 0x7C00 mask 0xFE00 (R450). -/
def execReserved7C00 (_ : Word) (s : State) : Host.Outcome State Fault Refusal :=
  perform .ordinary reservedTrap s

/-- RESERVED, match 0x8D40 mask 0xFFC0 (R450). -/
def execReserved8D40 (_ : Word) (s : State) : Host.Outcome State Fault Refusal :=
  perform .ordinary reservedTrap s

/-- RESERVED, match 0x8D80 mask 0xFFC0 (R450). -/
def execReserved8D80 (_ : Word) (s : State) : Host.Outcome State Fault Refusal :=
  perform .ordinary reservedTrap s

/-- RESERVED, match 0x8E00 mask 0xFE00 (R450). -/
def execReserved8E00 (_ : Word) (s : State) : Host.Outcome State Fault Refusal :=
  perform .ordinary reservedTrap s

/-- RESERVED, match 0xF000 mask 0xF000 (R450). -/
def execReservedF000 (_ : Word) (s : State) : Host.Outcome State Fault Refusal :=
  perform .ordinary reservedTrap s

end Sys2Proof.Machine
end

