-- ==== Sys2Proof/Machine/Dispatch.lean ====
section
/-! DEFINITION. The meaning of each instruction, one arm per constructor (spec/40_dispatch_loop.md R156). -/

namespace Sys2Proof.Machine

/-- Run an instruction on the state its opcode fetch left. -/
def exec (i : Instr) (s : State) : Host.Outcome State Fault Refusal :=
  match i with
  | .halt => Sys2Proof.Machine.execHalt s
  | .wait => Sys2Proof.Machine.execWait s
  | .rti => Sys2Proof.Machine.execRti s
  | .bpt => Sys2Proof.Machine.execBpt s
  | .iot => Sys2Proof.Machine.execIot s
  | .reset => Sys2Proof.Machine.execReset s
  | .rtt => Sys2Proof.Machine.execRtt s
  | .jmp dst => Sys2Proof.Machine.execJmp dst s
  | .rts r => Sys2Proof.Machine.execRts r s
  | .nop => Sys2Proof.Machine.execNop s
  | .clc => Sys2Proof.Machine.execClc s
  | .clv => Sys2Proof.Machine.execClv s
  | .clvc => Sys2Proof.Machine.execClvc s
  | .clz => Sys2Proof.Machine.execClz s
  | .clzc => Sys2Proof.Machine.execClzc s
  | .clzv => Sys2Proof.Machine.execClzv s
  | .clzvc => Sys2Proof.Machine.execClzvc s
  | .cln => Sys2Proof.Machine.execCln s
  | .clnc => Sys2Proof.Machine.execClnc s
  | .clnv => Sys2Proof.Machine.execClnv s
  | .clnvc => Sys2Proof.Machine.execClnvc s
  | .clnz => Sys2Proof.Machine.execClnz s
  | .clnzc => Sys2Proof.Machine.execClnzc s
  | .clnzv => Sys2Proof.Machine.execClnzv s
  | .ccc => Sys2Proof.Machine.execCcc s
  | .se0 => Sys2Proof.Machine.execSe0 s
  | .sec => Sys2Proof.Machine.execSec s
  | .sev => Sys2Proof.Machine.execSev s
  | .sevc => Sys2Proof.Machine.execSevc s
  | .sez => Sys2Proof.Machine.execSez s
  | .sezc => Sys2Proof.Machine.execSezc s
  | .sezv => Sys2Proof.Machine.execSezv s
  | .sezvc => Sys2Proof.Machine.execSezvc s
  | .sen => Sys2Proof.Machine.execSen s
  | .senc => Sys2Proof.Machine.execSenc s
  | .senv => Sys2Proof.Machine.execSenv s
  | .senvc => Sys2Proof.Machine.execSenvc s
  | .senz => Sys2Proof.Machine.execSenz s
  | .senzc => Sys2Proof.Machine.execSenzc s
  | .senzv => Sys2Proof.Machine.execSenzv s
  | .scc => Sys2Proof.Machine.execScc s
  | .swab dst => Sys2Proof.Machine.execSwab dst s
  | .br off => Sys2Proof.Machine.execBr off s
  | .bne off => Sys2Proof.Machine.execBne off s
  | .beq off => Sys2Proof.Machine.execBeq off s
  | .bge off => Sys2Proof.Machine.execBge off s
  | .blt off => Sys2Proof.Machine.execBlt off s
  | .bgt off => Sys2Proof.Machine.execBgt off s
  | .ble off => Sys2Proof.Machine.execBle off s
  | .bpl off => Sys2Proof.Machine.execBpl off s
  | .bmi off => Sys2Proof.Machine.execBmi off s
  | .bhi off => Sys2Proof.Machine.execBhi off s
  | .blos off => Sys2Proof.Machine.execBlos off s
  | .bvc off => Sys2Proof.Machine.execBvc off s
  | .bvs off => Sys2Proof.Machine.execBvs off s
  | .bcc off => Sys2Proof.Machine.execBcc off s
  | .bcs off => Sys2Proof.Machine.execBcs off s
  | .jsr r dst => Sys2Proof.Machine.execJsr r dst s
  | .clr dst => Sys2Proof.Machine.execClr dst s
  | .clrb dst => Sys2Proof.Machine.execClrb dst s
  | .com dst => Sys2Proof.Machine.execCom dst s
  | .comb dst => Sys2Proof.Machine.execComb dst s
  | .inc dst => Sys2Proof.Machine.execInc dst s
  | .incb dst => Sys2Proof.Machine.execIncb dst s
  | .dec dst => Sys2Proof.Machine.execDec dst s
  | .decb dst => Sys2Proof.Machine.execDecb dst s
  | .neg dst => Sys2Proof.Machine.execNeg dst s
  | .negb dst => Sys2Proof.Machine.execNegb dst s
  | .adc dst => Sys2Proof.Machine.execAdc dst s
  | .adcb dst => Sys2Proof.Machine.execAdcb dst s
  | .sbc dst => Sys2Proof.Machine.execSbc dst s
  | .sbcb dst => Sys2Proof.Machine.execSbcb dst s
  | .tst dst => Sys2Proof.Machine.execTst dst s
  | .tstb dst => Sys2Proof.Machine.execTstb dst s
  | .ror dst => Sys2Proof.Machine.execRor dst s
  | .rorb dst => Sys2Proof.Machine.execRorb dst s
  | .rol dst => Sys2Proof.Machine.execRol dst s
  | .rolb dst => Sys2Proof.Machine.execRolb dst s
  | .asr dst => Sys2Proof.Machine.execAsr dst s
  | .asrb dst => Sys2Proof.Machine.execAsrb dst s
  | .asl dst => Sys2Proof.Machine.execAsl dst s
  | .aslb dst => Sys2Proof.Machine.execAslb dst s
  | .mark nn => Sys2Proof.Machine.execMark nn s
  | .sxt dst => Sys2Proof.Machine.execSxt dst s
  | .mov src dst => Sys2Proof.Machine.execMov src dst s
  | .movb src dst => Sys2Proof.Machine.execMovb src dst s
  | .cmp src dst => Sys2Proof.Machine.execCmp src dst s
  | .cmpb src dst => Sys2Proof.Machine.execCmpb src dst s
  | .bit src dst => Sys2Proof.Machine.execBit src dst s
  | .bitb src dst => Sys2Proof.Machine.execBitb src dst s
  | .bic src dst => Sys2Proof.Machine.execBic src dst s
  | .bicb src dst => Sys2Proof.Machine.execBicb src dst s
  | .bis src dst => Sys2Proof.Machine.execBis src dst s
  | .bisb src dst => Sys2Proof.Machine.execBisb src dst s
  | .add src dst => Sys2Proof.Machine.execAdd src dst s
  | .sub src dst => Sys2Proof.Machine.execSub src dst s
  | .xor r dst => Sys2Proof.Machine.execXor r dst s
  | .sob r nn => Sys2Proof.Machine.execSob r nn s
  | .emt code => Sys2Proof.Machine.execEmt code s
  | .trap code => Sys2Proof.Machine.execTrap code s
  | .mtps src => Sys2Proof.Machine.execMtps src s
  | .mfps dst => Sys2Proof.Machine.execMfps dst s
  | .reserved0007 => Sys2Proof.Machine.execReserved0007 s
  | .reserved0008 w => Sys2Proof.Machine.execReserved0008 w s
  | .reserved0010 w => Sys2Proof.Machine.execReserved0010 w s
  | .reserved0020 w => Sys2Proof.Machine.execReserved0020 w s
  | .reserved0088 w => Sys2Proof.Machine.execReserved0088 w s
  | .reserved0090 w => Sys2Proof.Machine.execReserved0090 w s
  | .reserved0D40 w => Sys2Proof.Machine.execReserved0D40 w s
  | .reserved0D80 w => Sys2Proof.Machine.execReserved0D80 w s
  | .reserved0E00 w => Sys2Proof.Machine.execReserved0E00 w s
  | .reserved7000 w => Sys2Proof.Machine.execReserved7000 w s
  | .reserved7A00 w => Sys2Proof.Machine.execReserved7A00 w s
  | .reserved7C00 w => Sys2Proof.Machine.execReserved7C00 w s
  | .reserved8D40 w => Sys2Proof.Machine.execReserved8D40 w s
  | .reserved8D80 w => Sys2Proof.Machine.execReserved8D80 w s
  | .reserved8E00 w => Sys2Proof.Machine.execReserved8E00 w s
  | .reservedF000 w => Sys2Proof.Machine.execReservedF000 w s

end Sys2Proof.Machine
end

