-- ==== Sys2Proof/Machine/Environment.lean ====
section
/-! DEFINITION. What the environment and the driver do between two steps (spec/00_scope.md R19, R20;
spec/40_dispatch_loop.md R162; spec/92_eei_decisions.md D36; log 10). -/

namespace Sys2Proof.Machine

/-- One environment action. A line the variant does not have changes nothing (R483; log 20). -/
def applyInput (s : State) : EnvInput → State
  | .irq lines => if s.extended then s else { s with irqState := lines }
  | .haltLine level => if s.extended then { s with haltLine := level } else s
  | .eventEdge => if s.extended then { s with eventLatch := true } else s
  | .powerFail level => if s.extended then { s with powerFailReq := level } else s
  | .virq level => if s.extended then { s with virq := level } else s
  | .peripheral k p => { s with chain := s.chain.set k p }
  | .store a v => { s with mem := s.mem.write a v }
  | .reset bank => s.coreReset bank

/-- The environment's turn before a step: the next batch of actions, in order. -/
def State.takeInputs (s : State) : State :=
  (s.inputs.headD []).foldl applyInput { s with inputs := s.inputs.tail }

end Sys2Proof.Machine
end

