-- ==== Sys2Proof/WellFormed.lean ====
section
/-! DEFINITION. Which instructions the encoding can express. Every operand field admits every value of its type
(spec/30_encoding.md R116), so the only check is that the word kept by a RESERVED row lies in that row (R119). -/

namespace Sys2Proof

/-- The test of a row of spec/opcode_table.json: the masked word is the row's match (R115). -/
def wordFits (mask pat w : Word) : Bool := w &&& mask == pat

/-- The instruction is one that a word encodes. -/
def Instr.wf : Instr → Bool
  | .halt | .wait | .rti | .bpt | .iot | .reset | .rtt | .jmp _ | .rts _ | .nop | .clc | .clv | .clvc | .clz
  | .clzc | .clzv | .clzvc | .cln | .clnc | .clnv | .clnvc | .clnz | .clnzc | .clnzv | .ccc | .se0 | .sec
  | .sev | .sevc | .sez | .sezc | .sezv | .sezvc | .sen | .senc | .senv | .senvc | .senz | .senzc | .senzv
  | .scc | .swab _ | .br _ | .bne _ | .beq _ | .bge _ | .blt _ | .bgt _ | .ble _ | .bpl _ | .bmi _ | .bhi _
  | .blos _ | .bvc _ | .bvs _ | .bcc _ | .bcs _ | .jsr _ _ | .clr _ | .clrb _ | .com _ | .comb _ | .inc _
  | .incb _ | .dec _ | .decb _ | .neg _ | .negb _ | .adc _ | .adcb _ | .sbc _ | .sbcb _ | .tst _ | .tstb _
  | .ror _ | .rorb _ | .rol _ | .rolb _ | .asr _ | .asrb _ | .asl _ | .aslb _ | .mark _ | .sxt _ | .mov _ _
  | .movb _ _ | .cmp _ _ | .cmpb _ _ | .bit _ _ | .bitb _ _ | .bic _ _ | .bicb _ _ | .bis _ _ | .bisb _ _
  | .add _ _ | .sub _ _ | .xor _ _ | .sob _ _ | .emt _ | .trap _ | .mtps _ | .mfps _ | .reserved0007 => true
  | .reserved0008 w => wordFits 0xFFF8 0x0008 w
  | .reserved0010 w => wordFits 0xFFF0 0x0010 w
  | .reserved0020 w => wordFits 0xFFE0 0x0020 w
  | .reserved0088 w => wordFits 0xFFF8 0x0088 w
  | .reserved0090 w => wordFits 0xFFF0 0x0090 w
  | .reserved0D40 w => wordFits 0xFFC0 0x0D40 w
  | .reserved0D80 w => wordFits 0xFFC0 0x0D80 w
  | .reserved0E00 w => wordFits 0xFE00 0x0E00 w
  | .reserved7000 w => wordFits 0xF800 0x7000 w
  | .reserved7A00 w => wordFits 0xFE00 0x7A00 w
  | .reserved7C00 w => wordFits 0xFE00 0x7C00 w
  | .reserved8D40 w => wordFits 0xFFC0 0x8D40 w
  | .reserved8D80 w => wordFits 0xFFC0 0x8D80 w
  | .reserved8E00 w => wordFits 0xFE00 0x8E00 w
  | .reservedF000 w => wordFits 0xF000 0xF000 w

end Sys2Proof
end

