-- ==== Sys2Proof/Decode.lean ====
section
/-! DEFINITION. The decoder and the encoder of the opcode word (spec/30_encoding.md R103 to R119), and the opcode
table as data. Decoding depends on the opcode word alone and never fails: every word has a row (R115, R119). -/

namespace Sys2Proof

/-- A register field (R103). -/
def regOf (b : BitVec 3) : Reg :=
  match b with
  | 0 => .r0 | 1 => .r1 | 2 => .r2 | 3 => .r3 | 4 => .r4 | 5 => .r5 | 6 => .sp | _ => .pc

/-- A mode field (R103). -/
def modeOf (b : BitVec 3) : Mode :=
  match b with
  | 0 => .register | 1 => .deferred | 2 => .autoInc | 3 => .autoIncDeferred
  | 4 => .autoDec | 5 => .autoDecDeferred | 6 => .index | _ => .indexDeferred

/-- A specifier field: the mode in bits 5:3, the register in bits 2:0 (R103). -/
def operandOf (b : BitVec 6) : Operand :=
  ⟨modeOf (b.extractLsb' 3 3), regOf (b.extractLsb' 0 3)⟩

/-- The specifier in bits 5:0 (R104 to R106). -/
def dstField (w : Word) : Operand := operandOf (w.extractLsb' 0 6)

/-- The source specifier in bits 11:6 (R104). -/
def srcField (w : Word) : Operand := operandOf (w.extractLsb' 6 6)

/-- The register field in bits 8:6 (R105). -/
def regField (w : Word) : Reg := regOf (w.extractLsb' 6 3)

/-- The low byte: a branch offset or a trap code (R107). -/
def byteField (w : Word) : BitVec 8 := w.extractLsb' 0 8

/-- The low six bits: the count of SOB and MARK (R105, R108). -/
def countField (w : Word) : BitVec 6 := w.extractLsb' 0 6

/-- The words 0x0000 to 0x003F: format NONE and reserved words (R110, R117). -/
def decodeSystem (w : Word) : Instr :=
  match w.extractLsb' 3 3 with
  | 0 =>
    match w.extractLsb' 0 3 with
    | 0 => .halt | 1 => .wait | 2 => .rti | 3 => .bpt | 4 => .iot | 5 => .reset | 6 => .rtt | _ => .reserved0007
  | 1 => .reserved0008 w
  | 2 => .reserved0010 w
  | 3 => .reserved0010 w
  | _ => .reserved0020 w

/-- The words 0x00A0 to 0x00BF: the condition-code operators (R109). -/
def decodeCc (w : Word) : Instr :=
  match w.extractLsb' 0 5 with
  | 0x00 => .nop   | 0x01 => .clc   | 0x02 => .clv   | 0x03 => .clvc
  | 0x04 => .clz   | 0x05 => .clzc  | 0x06 => .clzv  | 0x07 => .clzvc
  | 0x08 => .cln   | 0x09 => .clnc  | 0x0A => .clnv  | 0x0B => .clnvc
  | 0x0C => .clnz  | 0x0D => .clnzc | 0x0E => .clnzv | 0x0F => .ccc
  | 0x10 => .se0   | 0x11 => .sec   | 0x12 => .sev   | 0x13 => .sevc
  | 0x14 => .sez   | 0x15 => .sezc  | 0x16 => .sezv  | 0x17 => .sezvc
  | 0x18 => .sen   | 0x19 => .senc  | 0x1A => .senv  | 0x1B => .senvc
  | 0x1C => .senz  | 0x1D => .senzc | 0x1E => .senzv | _ => .scc

/-- The words 0x0080 to 0x00BF: RTS, reserved words and the condition-code operators (R108, R109, R117). -/
def decodeRtsCc (w : Word) : Instr :=
  match w.extractLsb' 3 3 with
  | 0 => .rts (regOf (w.extractLsb' 0 3))
  | 1 => .reserved0088 w
  | 2 => .reserved0090 w
  | 3 => .reserved0090 w
  | _ => decodeCc w

/-- The words 0x0000 to 0x01FF: bits 8:6 select (R106 to R110). -/
def decodeMisc (w : Word) : Instr :=
  match w.extractLsb' 6 3 with
  | 0 => decodeSystem w
  | 1 => .jmp (dstField w)
  | 2 => decodeRtsCc w
  | 3 => .swab (dstField w)
  | _ => .br (byteField w)

/-- The words 0x0000 to 0x0FFF: bits 11:9 select (R105 to R108). -/
def decodeLow (w : Word) : Instr :=
  match w.extractLsb' 9 3 with
  | 0 => decodeMisc w
  | 1 => if w.getLsbD 8 then .beq (byteField w) else .bne (byteField w)
  | 2 => if w.getLsbD 8 then .blt (byteField w) else .bge (byteField w)
  | 3 => if w.getLsbD 8 then .ble (byteField w) else .bgt (byteField w)
  | 4 => .jsr (regField w) (dstField w)
  | 5 =>
    match w.extractLsb' 6 3 with
    | 0 => .clr (dstField w) | 1 => .com (dstField w) | 2 => .inc (dstField w) | 3 => .dec (dstField w)
    | 4 => .neg (dstField w) | 5 => .adc (dstField w) | 6 => .sbc (dstField w) | _ => .tst (dstField w)
  | 6 =>
    match w.extractLsb' 6 3 with
    | 0 => .ror (dstField w) | 1 => .rol (dstField w) | 2 => .asr (dstField w) | 3 => .asl (dstField w)
    | 4 => .mark (countField w) | 5 => .reserved0D40 w | 6 => .reserved0D80 w | _ => .sxt (dstField w)
  | _ => .reserved0E00 w

/-- The words 0x7000 to 0x7FFF: XOR, SOB and reserved words (R105, R117). -/
def decodeRegister (w : Word) : Instr :=
  match w.extractLsb' 9 3 with
  | 4 => .xor (regField w) (dstField w)
  | 5 => .reserved7A00 w
  | 6 => .reserved7C00 w
  | 7 => .sob (regField w) (countField w)
  | _ => .reserved7000 w

/-- The words 0x8000 to 0x8FFF: branches, EMT, TRAP and the byte forms (R106, R107). -/
def decodeHigh (w : Word) : Instr :=
  match w.extractLsb' 9 3 with
  | 0 => if w.getLsbD 8 then .bmi (byteField w) else .bpl (byteField w)
  | 1 => if w.getLsbD 8 then .blos (byteField w) else .bhi (byteField w)
  | 2 => if w.getLsbD 8 then .bvs (byteField w) else .bvc (byteField w)
  | 3 => if w.getLsbD 8 then .bcs (byteField w) else .bcc (byteField w)
  | 4 => if w.getLsbD 8 then .trap (byteField w) else .emt (byteField w)
  | 5 =>
    match w.extractLsb' 6 3 with
    | 0 => .clrb (dstField w) | 1 => .comb (dstField w) | 2 => .incb (dstField w) | 3 => .decb (dstField w)
    | 4 => .negb (dstField w) | 5 => .adcb (dstField w) | 6 => .sbcb (dstField w) | _ => .tstb (dstField w)
  | 6 =>
    match w.extractLsb' 6 3 with
    | 0 => .rorb (dstField w) | 1 => .rolb (dstField w) | 2 => .asrb (dstField w) | 3 => .aslb (dstField w)
    | 4 => .mtps (dstField w) | 5 => .reserved8D40 w | 6 => .reserved8D80 w | _ => .mfps (dstField w)
  | _ => .reserved8E00 w

/-- The instruction an opcode word stands for (R115); bits 15:12 select the format (R104). -/
def decode (w : Word) : Instr :=
  match w.extractLsb' 12 4 with
  | 0x0 => decodeLow w
  | 0x1 => .mov (srcField w) (dstField w)
  | 0x2 => .cmp (srcField w) (dstField w)
  | 0x3 => .bit (srcField w) (dstField w)
  | 0x4 => .bic (srcField w) (dstField w)
  | 0x5 => .bis (srcField w) (dstField w)
  | 0x6 => .add (srcField w) (dstField w)
  | 0x7 => decodeRegister w
  | 0x8 => decodeHigh w
  | 0x9 => .movb (srcField w) (dstField w)
  | 0xA => .cmpb (srcField w) (dstField w)
  | 0xB => .bitb (srcField w) (dstField w)
  | 0xC => .bicb (srcField w) (dstField w)
  | 0xD => .bisb (srcField w) (dstField w)
  | 0xE => .sub (srcField w) (dstField w)
  | _ => .reservedF000 w

/-- Why a byte stream holds no instruction. -/
inductive DecodeError
  /-- Fewer than the two bytes of an opcode word. -/
  | truncated
deriving DecidableEq, Repr

/-- Decoding a stream of bytes: the low byte of the opcode word comes first (R101), the rest is returned. -/
def decodeStream : List Byte → Except DecodeError (Instr × List Byte)
  | lo :: hi :: rest => .ok (decode (hi ++ lo), rest)
  | _ => .error .truncated

/-- The bytes of a word as the hardware stores them, the low byte first (R101). -/
def wordBytes (w : Word) : List Byte := [w.extractLsb' 0 8, w.extractLsb' 8 8]

/-- The bytes of an instruction of `nbits` bits numbered as spec/opcode_table.json numbers them, every bit above
`nbits` zero, laid out over the three words of the longest instruction (R102). -/
def tableBytes (nbits w : Nat) : List Byte :=
  let v := w % 2 ^ nbits
  wordBytes (BitVec.ofNat 16 v) ++ wordBytes (BitVec.ofNat 16 (v / 2 ^ 16)) ++ wordBytes (BitVec.ofNat 16 (v / 2 ^ 32))

/-- The instruction the decoder reads from those bytes. -/
def decodeTableWord (nbits w : Nat) : Option Instr :=
  match decodeStream (tableBytes nbits w) with
  | .ok (i, _) => some i
  | .error _ => none

/-- The register field of a register (R103). -/
def Reg.bits : Reg → BitVec 3
  | .r0 => 0 | .r1 => 1 | .r2 => 2 | .r3 => 3 | .r4 => 4 | .r5 => 5 | .sp => 6 | .pc => 7

/-- The mode field of a mode (R103). -/
def Mode.bits : Mode → BitVec 3
  | .register => 0 | .deferred => 1 | .autoInc => 2 | .autoIncDeferred => 3
  | .autoDec => 4 | .autoDecDeferred => 5 | .index => 6 | .indexDeferred => 7

/-- The specifier field of an operand (R103). -/
def Operand.bits (o : Operand) : BitVec 6 := o.mode.bits ++ o.reg.bits

/-- The opcode word of an instruction, from the formats of R104 to R110 (fields high to low). -/
def encode : Instr → Word
  | .halt => 0x0000#16
  | .wait => 0x0001#16
  | .rti => 0x0002#16
  | .bpt => 0x0003#16
  | .iot => 0x0004#16
  | .reset => 0x0005#16
  | .rtt => 0x0006#16
  | .jmp dst => 0x001#10 ++ dst.bits
  | .rts r => 0x0010#13 ++ r.bits
  | .nop => 0x00A0#16
  | .clc => 0x00A1#16
  | .clv => 0x00A2#16
  | .clvc => 0x00A3#16
  | .clz => 0x00A4#16
  | .clzc => 0x00A5#16
  | .clzv => 0x00A6#16
  | .clzvc => 0x00A7#16
  | .cln => 0x00A8#16
  | .clnc => 0x00A9#16
  | .clnv => 0x00AA#16
  | .clnvc => 0x00AB#16
  | .clnz => 0x00AC#16
  | .clnzc => 0x00AD#16
  | .clnzv => 0x00AE#16
  | .ccc => 0x00AF#16
  | .se0 => 0x00B0#16
  | .sec => 0x00B1#16
  | .sev => 0x00B2#16
  | .sevc => 0x00B3#16
  | .sez => 0x00B4#16
  | .sezc => 0x00B5#16
  | .sezv => 0x00B6#16
  | .sezvc => 0x00B7#16
  | .sen => 0x00B8#16
  | .senc => 0x00B9#16
  | .senv => 0x00BA#16
  | .senvc => 0x00BB#16
  | .senz => 0x00BC#16
  | .senzc => 0x00BD#16
  | .senzv => 0x00BE#16
  | .scc => 0x00BF#16
  | .swab dst => 0x003#10 ++ dst.bits
  | .br off => 0x01#8 ++ off
  | .bne off => 0x02#8 ++ off
  | .beq off => 0x03#8 ++ off
  | .bge off => 0x04#8 ++ off
  | .blt off => 0x05#8 ++ off
  | .bgt off => 0x06#8 ++ off
  | .ble off => 0x07#8 ++ off
  | .bpl off => 0x80#8 ++ off
  | .bmi off => 0x81#8 ++ off
  | .bhi off => 0x82#8 ++ off
  | .blos off => 0x83#8 ++ off
  | .bvc off => 0x84#8 ++ off
  | .bvs off => 0x85#8 ++ off
  | .bcc off => 0x86#8 ++ off
  | .bcs off => 0x87#8 ++ off
  | .jsr r dst => 0x04#7 ++ r.bits ++ dst.bits
  | .clr dst => 0x028#10 ++ dst.bits
  | .clrb dst => 0x228#10 ++ dst.bits
  | .com dst => 0x029#10 ++ dst.bits
  | .comb dst => 0x229#10 ++ dst.bits
  | .inc dst => 0x02A#10 ++ dst.bits
  | .incb dst => 0x22A#10 ++ dst.bits
  | .dec dst => 0x02B#10 ++ dst.bits
  | .decb dst => 0x22B#10 ++ dst.bits
  | .neg dst => 0x02C#10 ++ dst.bits
  | .negb dst => 0x22C#10 ++ dst.bits
  | .adc dst => 0x02D#10 ++ dst.bits
  | .adcb dst => 0x22D#10 ++ dst.bits
  | .sbc dst => 0x02E#10 ++ dst.bits
  | .sbcb dst => 0x22E#10 ++ dst.bits
  | .tst dst => 0x02F#10 ++ dst.bits
  | .tstb dst => 0x22F#10 ++ dst.bits
  | .ror dst => 0x030#10 ++ dst.bits
  | .rorb dst => 0x230#10 ++ dst.bits
  | .rol dst => 0x031#10 ++ dst.bits
  | .rolb dst => 0x231#10 ++ dst.bits
  | .asr dst => 0x032#10 ++ dst.bits
  | .asrb dst => 0x232#10 ++ dst.bits
  | .asl dst => 0x033#10 ++ dst.bits
  | .aslb dst => 0x233#10 ++ dst.bits
  | .mark nn => 0x034#10 ++ nn
  | .sxt dst => 0x037#10 ++ dst.bits
  | .mov src dst => 0x1#4 ++ src.bits ++ dst.bits
  | .movb src dst => 0x9#4 ++ src.bits ++ dst.bits
  | .cmp src dst => 0x2#4 ++ src.bits ++ dst.bits
  | .cmpb src dst => 0xA#4 ++ src.bits ++ dst.bits
  | .bit src dst => 0x3#4 ++ src.bits ++ dst.bits
  | .bitb src dst => 0xB#4 ++ src.bits ++ dst.bits
  | .bic src dst => 0x4#4 ++ src.bits ++ dst.bits
  | .bicb src dst => 0xC#4 ++ src.bits ++ dst.bits
  | .bis src dst => 0x5#4 ++ src.bits ++ dst.bits
  | .bisb src dst => 0xD#4 ++ src.bits ++ dst.bits
  | .add src dst => 0x6#4 ++ src.bits ++ dst.bits
  | .sub src dst => 0xE#4 ++ src.bits ++ dst.bits
  | .xor r dst => 0x3C#7 ++ r.bits ++ dst.bits
  | .sob r nn => 0x3F#7 ++ r.bits ++ nn
  | .emt code => 0x88#8 ++ code
  | .trap code => 0x89#8 ++ code
  | .mtps src => 0x234#10 ++ src.bits
  | .mfps dst => 0x237#10 ++ dst.bits
  | .reserved0007 => 0x0007#16
  | .reserved0008 w => w
  | .reserved0010 w => w
  | .reserved0020 w => w
  | .reserved0088 w => w
  | .reserved0090 w => w
  | .reserved0D40 w => w
  | .reserved0D80 w => w
  | .reserved0E00 w => w
  | .reserved7000 w => w
  | .reserved7A00 w => w
  | .reserved7C00 w => w
  | .reserved8D40 w => w
  | .reserved8D80 w => w
  | .reserved8E00 w => w
  | .reservedF000 w => w

/-- A row of spec/opcode_table.json: its mnemonic, mask and match. -/
structure Row where
  mnemonic : String
  mask     : Word
  pat      : Word
deriving DecidableEq, Repr

/-- The row of the opcode table that a constructor stands for. -/
def Instr.row : Instr → Row
  | .halt => ⟨"HALT", 0xFFFF, 0x0000⟩
  | .wait => ⟨"WAIT", 0xFFFF, 0x0001⟩
  | .rti => ⟨"RTI", 0xFFFF, 0x0002⟩
  | .bpt => ⟨"BPT", 0xFFFF, 0x0003⟩
  | .iot => ⟨"IOT", 0xFFFF, 0x0004⟩
  | .reset => ⟨"RESET", 0xFFFF, 0x0005⟩
  | .rtt => ⟨"RTT", 0xFFFF, 0x0006⟩
  | .jmp _ => ⟨"JMP", 0xFFC0, 0x0040⟩
  | .rts _ => ⟨"RTS", 0xFFF8, 0x0080⟩
  | .nop => ⟨"NOP", 0xFFFF, 0x00A0⟩
  | .clc => ⟨"CLC", 0xFFFF, 0x00A1⟩
  | .clv => ⟨"CLV", 0xFFFF, 0x00A2⟩
  | .clvc => ⟨"CLVC", 0xFFFF, 0x00A3⟩
  | .clz => ⟨"CLZ", 0xFFFF, 0x00A4⟩
  | .clzc => ⟨"CLZC", 0xFFFF, 0x00A5⟩
  | .clzv => ⟨"CLZV", 0xFFFF, 0x00A6⟩
  | .clzvc => ⟨"CLZVC", 0xFFFF, 0x00A7⟩
  | .cln => ⟨"CLN", 0xFFFF, 0x00A8⟩
  | .clnc => ⟨"CLNC", 0xFFFF, 0x00A9⟩
  | .clnv => ⟨"CLNV", 0xFFFF, 0x00AA⟩
  | .clnvc => ⟨"CLNVC", 0xFFFF, 0x00AB⟩
  | .clnz => ⟨"CLNZ", 0xFFFF, 0x00AC⟩
  | .clnzc => ⟨"CLNZC", 0xFFFF, 0x00AD⟩
  | .clnzv => ⟨"CLNZV", 0xFFFF, 0x00AE⟩
  | .ccc => ⟨"CCC", 0xFFFF, 0x00AF⟩
  | .se0 => ⟨"SE0", 0xFFFF, 0x00B0⟩
  | .sec => ⟨"SEC", 0xFFFF, 0x00B1⟩
  | .sev => ⟨"SEV", 0xFFFF, 0x00B2⟩
  | .sevc => ⟨"SEVC", 0xFFFF, 0x00B3⟩
  | .sez => ⟨"SEZ", 0xFFFF, 0x00B4⟩
  | .sezc => ⟨"SEZC", 0xFFFF, 0x00B5⟩
  | .sezv => ⟨"SEZV", 0xFFFF, 0x00B6⟩
  | .sezvc => ⟨"SEZVC", 0xFFFF, 0x00B7⟩
  | .sen => ⟨"SEN", 0xFFFF, 0x00B8⟩
  | .senc => ⟨"SENC", 0xFFFF, 0x00B9⟩
  | .senv => ⟨"SENV", 0xFFFF, 0x00BA⟩
  | .senvc => ⟨"SENVC", 0xFFFF, 0x00BB⟩
  | .senz => ⟨"SENZ", 0xFFFF, 0x00BC⟩
  | .senzc => ⟨"SENZC", 0xFFFF, 0x00BD⟩
  | .senzv => ⟨"SENZV", 0xFFFF, 0x00BE⟩
  | .scc => ⟨"SCC", 0xFFFF, 0x00BF⟩
  | .swab _ => ⟨"SWAB", 0xFFC0, 0x00C0⟩
  | .br _ => ⟨"BR", 0xFF00, 0x0100⟩
  | .bne _ => ⟨"BNE", 0xFF00, 0x0200⟩
  | .beq _ => ⟨"BEQ", 0xFF00, 0x0300⟩
  | .bge _ => ⟨"BGE", 0xFF00, 0x0400⟩
  | .blt _ => ⟨"BLT", 0xFF00, 0x0500⟩
  | .bgt _ => ⟨"BGT", 0xFF00, 0x0600⟩
  | .ble _ => ⟨"BLE", 0xFF00, 0x0700⟩
  | .bpl _ => ⟨"BPL", 0xFF00, 0x8000⟩
  | .bmi _ => ⟨"BMI", 0xFF00, 0x8100⟩
  | .bhi _ => ⟨"BHI", 0xFF00, 0x8200⟩
  | .blos _ => ⟨"BLOS", 0xFF00, 0x8300⟩
  | .bvc _ => ⟨"BVC", 0xFF00, 0x8400⟩
  | .bvs _ => ⟨"BVS", 0xFF00, 0x8500⟩
  | .bcc _ => ⟨"BCC", 0xFF00, 0x8600⟩
  | .bcs _ => ⟨"BCS", 0xFF00, 0x8700⟩
  | .jsr _ _ => ⟨"JSR", 0xFE00, 0x0800⟩
  | .clr _ => ⟨"CLR", 0xFFC0, 0x0A00⟩
  | .clrb _ => ⟨"CLRB", 0xFFC0, 0x8A00⟩
  | .com _ => ⟨"COM", 0xFFC0, 0x0A40⟩
  | .comb _ => ⟨"COMB", 0xFFC0, 0x8A40⟩
  | .inc _ => ⟨"INC", 0xFFC0, 0x0A80⟩
  | .incb _ => ⟨"INCB", 0xFFC0, 0x8A80⟩
  | .dec _ => ⟨"DEC", 0xFFC0, 0x0AC0⟩
  | .decb _ => ⟨"DECB", 0xFFC0, 0x8AC0⟩
  | .neg _ => ⟨"NEG", 0xFFC0, 0x0B00⟩
  | .negb _ => ⟨"NEGB", 0xFFC0, 0x8B00⟩
  | .adc _ => ⟨"ADC", 0xFFC0, 0x0B40⟩
  | .adcb _ => ⟨"ADCB", 0xFFC0, 0x8B40⟩
  | .sbc _ => ⟨"SBC", 0xFFC0, 0x0B80⟩
  | .sbcb _ => ⟨"SBCB", 0xFFC0, 0x8B80⟩
  | .tst _ => ⟨"TST", 0xFFC0, 0x0BC0⟩
  | .tstb _ => ⟨"TSTB", 0xFFC0, 0x8BC0⟩
  | .ror _ => ⟨"ROR", 0xFFC0, 0x0C00⟩
  | .rorb _ => ⟨"RORB", 0xFFC0, 0x8C00⟩
  | .rol _ => ⟨"ROL", 0xFFC0, 0x0C40⟩
  | .rolb _ => ⟨"ROLB", 0xFFC0, 0x8C40⟩
  | .asr _ => ⟨"ASR", 0xFFC0, 0x0C80⟩
  | .asrb _ => ⟨"ASRB", 0xFFC0, 0x8C80⟩
  | .asl _ => ⟨"ASL", 0xFFC0, 0x0CC0⟩
  | .aslb _ => ⟨"ASLB", 0xFFC0, 0x8CC0⟩
  | .mark _ => ⟨"MARK", 0xFFC0, 0x0D00⟩
  | .sxt _ => ⟨"SXT", 0xFFC0, 0x0DC0⟩
  | .mov _ _ => ⟨"MOV", 0xF000, 0x1000⟩
  | .movb _ _ => ⟨"MOVB", 0xF000, 0x9000⟩
  | .cmp _ _ => ⟨"CMP", 0xF000, 0x2000⟩
  | .cmpb _ _ => ⟨"CMPB", 0xF000, 0xA000⟩
  | .bit _ _ => ⟨"BIT", 0xF000, 0x3000⟩
  | .bitb _ _ => ⟨"BITB", 0xF000, 0xB000⟩
  | .bic _ _ => ⟨"BIC", 0xF000, 0x4000⟩
  | .bicb _ _ => ⟨"BICB", 0xF000, 0xC000⟩
  | .bis _ _ => ⟨"BIS", 0xF000, 0x5000⟩
  | .bisb _ _ => ⟨"BISB", 0xF000, 0xD000⟩
  | .add _ _ => ⟨"ADD", 0xF000, 0x6000⟩
  | .sub _ _ => ⟨"SUB", 0xF000, 0xE000⟩
  | .xor _ _ => ⟨"XOR", 0xFE00, 0x7800⟩
  | .sob _ _ => ⟨"SOB", 0xFE00, 0x7E00⟩
  | .emt _ => ⟨"EMT", 0xFF00, 0x8800⟩
  | .trap _ => ⟨"TRAP", 0xFF00, 0x8900⟩
  | .mtps _ => ⟨"MTPS", 0xFFC0, 0x8D00⟩
  | .mfps _ => ⟨"MFPS", 0xFFC0, 0x8DC0⟩
  | .reserved0007 => ⟨"RESERVED", 0xFFFF, 0x0007⟩
  | .reserved0008 _ => ⟨"RESERVED", 0xFFF8, 0x0008⟩
  | .reserved0010 _ => ⟨"RESERVED", 0xFFF0, 0x0010⟩
  | .reserved0020 _ => ⟨"RESERVED", 0xFFE0, 0x0020⟩
  | .reserved0088 _ => ⟨"RESERVED", 0xFFF8, 0x0088⟩
  | .reserved0090 _ => ⟨"RESERVED", 0xFFF0, 0x0090⟩
  | .reserved0D40 _ => ⟨"RESERVED", 0xFFC0, 0x0D40⟩
  | .reserved0D80 _ => ⟨"RESERVED", 0xFFC0, 0x0D80⟩
  | .reserved0E00 _ => ⟨"RESERVED", 0xFE00, 0x0E00⟩
  | .reserved7000 _ => ⟨"RESERVED", 0xF800, 0x7000⟩
  | .reserved7A00 _ => ⟨"RESERVED", 0xFE00, 0x7A00⟩
  | .reserved7C00 _ => ⟨"RESERVED", 0xFE00, 0x7C00⟩
  | .reserved8D40 _ => ⟨"RESERVED", 0xFFC0, 0x8D40⟩
  | .reserved8D80 _ => ⟨"RESERVED", 0xFFC0, 0x8D80⟩
  | .reserved8E00 _ => ⟨"RESERVED", 0xFE00, 0x8E00⟩
  | .reservedF000 _ => ⟨"RESERVED", 0xF000, 0xF000⟩

/-- Rows 0 to 19 of spec/opcode_table.json. -/
def opcodeRows0 : List Row := [
  ⟨"HALT", 0xFFFF, 0x0000⟩, ⟨"WAIT", 0xFFFF, 0x0001⟩, ⟨"RTI", 0xFFFF, 0x0002⟩,
  ⟨"BPT", 0xFFFF, 0x0003⟩, ⟨"IOT", 0xFFFF, 0x0004⟩, ⟨"RESET", 0xFFFF, 0x0005⟩,
  ⟨"RTT", 0xFFFF, 0x0006⟩, ⟨"JMP", 0xFFC0, 0x0040⟩, ⟨"RTS", 0xFFF8, 0x0080⟩,
  ⟨"NOP", 0xFFFF, 0x00A0⟩, ⟨"CLC", 0xFFFF, 0x00A1⟩, ⟨"CLV", 0xFFFF, 0x00A2⟩,
  ⟨"CLVC", 0xFFFF, 0x00A3⟩, ⟨"CLZ", 0xFFFF, 0x00A4⟩, ⟨"CLZC", 0xFFFF, 0x00A5⟩,
  ⟨"CLZV", 0xFFFF, 0x00A6⟩, ⟨"CLZVC", 0xFFFF, 0x00A7⟩, ⟨"CLN", 0xFFFF, 0x00A8⟩,
  ⟨"CLNC", 0xFFFF, 0x00A9⟩, ⟨"CLNV", 0xFFFF, 0x00AA⟩]

/-- Rows 20 to 39 of spec/opcode_table.json. -/
def opcodeRows1 : List Row := [
  ⟨"CLNVC", 0xFFFF, 0x00AB⟩, ⟨"CLNZ", 0xFFFF, 0x00AC⟩, ⟨"CLNZC", 0xFFFF, 0x00AD⟩,
  ⟨"CLNZV", 0xFFFF, 0x00AE⟩, ⟨"CCC", 0xFFFF, 0x00AF⟩, ⟨"SE0", 0xFFFF, 0x00B0⟩,
  ⟨"SEC", 0xFFFF, 0x00B1⟩, ⟨"SEV", 0xFFFF, 0x00B2⟩, ⟨"SEVC", 0xFFFF, 0x00B3⟩,
  ⟨"SEZ", 0xFFFF, 0x00B4⟩, ⟨"SEZC", 0xFFFF, 0x00B5⟩, ⟨"SEZV", 0xFFFF, 0x00B6⟩,
  ⟨"SEZVC", 0xFFFF, 0x00B7⟩, ⟨"SEN", 0xFFFF, 0x00B8⟩, ⟨"SENC", 0xFFFF, 0x00B9⟩,
  ⟨"SENV", 0xFFFF, 0x00BA⟩, ⟨"SENVC", 0xFFFF, 0x00BB⟩, ⟨"SENZ", 0xFFFF, 0x00BC⟩,
  ⟨"SENZC", 0xFFFF, 0x00BD⟩, ⟨"SENZV", 0xFFFF, 0x00BE⟩]

/-- Rows 40 to 59 of spec/opcode_table.json. -/
def opcodeRows2 : List Row := [
  ⟨"SCC", 0xFFFF, 0x00BF⟩, ⟨"SWAB", 0xFFC0, 0x00C0⟩, ⟨"BR", 0xFF00, 0x0100⟩,
  ⟨"BNE", 0xFF00, 0x0200⟩, ⟨"BEQ", 0xFF00, 0x0300⟩, ⟨"BGE", 0xFF00, 0x0400⟩,
  ⟨"BLT", 0xFF00, 0x0500⟩, ⟨"BGT", 0xFF00, 0x0600⟩, ⟨"BLE", 0xFF00, 0x0700⟩,
  ⟨"BPL", 0xFF00, 0x8000⟩, ⟨"BMI", 0xFF00, 0x8100⟩, ⟨"BHI", 0xFF00, 0x8200⟩,
  ⟨"BLOS", 0xFF00, 0x8300⟩, ⟨"BVC", 0xFF00, 0x8400⟩, ⟨"BVS", 0xFF00, 0x8500⟩,
  ⟨"BCC", 0xFF00, 0x8600⟩, ⟨"BCS", 0xFF00, 0x8700⟩, ⟨"JSR", 0xFE00, 0x0800⟩,
  ⟨"CLR", 0xFFC0, 0x0A00⟩, ⟨"CLRB", 0xFFC0, 0x8A00⟩]

/-- Rows 60 to 79 of spec/opcode_table.json. -/
def opcodeRows3 : List Row := [
  ⟨"COM", 0xFFC0, 0x0A40⟩, ⟨"COMB", 0xFFC0, 0x8A40⟩, ⟨"INC", 0xFFC0, 0x0A80⟩,
  ⟨"INCB", 0xFFC0, 0x8A80⟩, ⟨"DEC", 0xFFC0, 0x0AC0⟩, ⟨"DECB", 0xFFC0, 0x8AC0⟩,
  ⟨"NEG", 0xFFC0, 0x0B00⟩, ⟨"NEGB", 0xFFC0, 0x8B00⟩, ⟨"ADC", 0xFFC0, 0x0B40⟩,
  ⟨"ADCB", 0xFFC0, 0x8B40⟩, ⟨"SBC", 0xFFC0, 0x0B80⟩, ⟨"SBCB", 0xFFC0, 0x8B80⟩,
  ⟨"TST", 0xFFC0, 0x0BC0⟩, ⟨"TSTB", 0xFFC0, 0x8BC0⟩, ⟨"ROR", 0xFFC0, 0x0C00⟩,
  ⟨"RORB", 0xFFC0, 0x8C00⟩, ⟨"ROL", 0xFFC0, 0x0C40⟩, ⟨"ROLB", 0xFFC0, 0x8C40⟩,
  ⟨"ASR", 0xFFC0, 0x0C80⟩, ⟨"ASRB", 0xFFC0, 0x8C80⟩]

/-- Rows 80 to 99 of spec/opcode_table.json. -/
def opcodeRows4 : List Row := [
  ⟨"ASL", 0xFFC0, 0x0CC0⟩, ⟨"ASLB", 0xFFC0, 0x8CC0⟩, ⟨"MARK", 0xFFC0, 0x0D00⟩,
  ⟨"SXT", 0xFFC0, 0x0DC0⟩, ⟨"MOV", 0xF000, 0x1000⟩, ⟨"MOVB", 0xF000, 0x9000⟩,
  ⟨"CMP", 0xF000, 0x2000⟩, ⟨"CMPB", 0xF000, 0xA000⟩, ⟨"BIT", 0xF000, 0x3000⟩,
  ⟨"BITB", 0xF000, 0xB000⟩, ⟨"BIC", 0xF000, 0x4000⟩, ⟨"BICB", 0xF000, 0xC000⟩,
  ⟨"BIS", 0xF000, 0x5000⟩, ⟨"BISB", 0xF000, 0xD000⟩, ⟨"ADD", 0xF000, 0x6000⟩,
  ⟨"SUB", 0xF000, 0xE000⟩, ⟨"XOR", 0xFE00, 0x7800⟩, ⟨"SOB", 0xFE00, 0x7E00⟩,
  ⟨"EMT", 0xFF00, 0x8800⟩, ⟨"TRAP", 0xFF00, 0x8900⟩]

/-- Rows 100 to 117 of spec/opcode_table.json. -/
def opcodeRows5 : List Row := [
  ⟨"MTPS", 0xFFC0, 0x8D00⟩, ⟨"MFPS", 0xFFC0, 0x8DC0⟩, ⟨"RESERVED", 0xFFFF, 0x0007⟩,
  ⟨"RESERVED", 0xFFF8, 0x0008⟩, ⟨"RESERVED", 0xFFF0, 0x0010⟩, ⟨"RESERVED", 0xFFE0, 0x0020⟩,
  ⟨"RESERVED", 0xFFF8, 0x0088⟩, ⟨"RESERVED", 0xFFF0, 0x0090⟩, ⟨"RESERVED", 0xFFC0, 0x0D40⟩,
  ⟨"RESERVED", 0xFFC0, 0x0D80⟩, ⟨"RESERVED", 0xFE00, 0x0E00⟩, ⟨"RESERVED", 0xF800, 0x7000⟩,
  ⟨"RESERVED", 0xFE00, 0x7A00⟩, ⟨"RESERVED", 0xFE00, 0x7C00⟩, ⟨"RESERVED", 0xFFC0, 0x8D40⟩,
  ⟨"RESERVED", 0xFFC0, 0x8D80⟩, ⟨"RESERVED", 0xFE00, 0x8E00⟩, ⟨"RESERVED", 0xF000, 0xF000⟩]

/-- All 118 rows of spec/opcode_table.json, in its order (R115). -/
def opcodeTable : List Row :=
  opcodeRows0 ++ opcodeRows1 ++ opcodeRows2 ++ opcodeRows3 ++ opcodeRows4 ++ opcodeRows5

end Sys2Proof
end

