-- ==== Sys2Proof/Machine/Fetch.lean ====
section
/-! DEFINITION. The start of an instruction and its opcode fetch (spec/40_dispatch_loop.md R152 to R154), the length
of an instruction (spec/30_encoding.md R102), and placing an instruction where the machine fetches next. -/

namespace Sys2Proof.Machine

/-- `sample_shadows()`: PPC and PPSW follow PC and PSW, but not in privileged mode (R42, R153). -/
def State.sampleShadows (s : State) : State :=
  if s.extended && flagH s.psw then s else { s with ppc := s.reg .pc, ppsw := s.psw }

/-- Instruction start: the snapshot S0, the shadows, the hook (R152, R153, R159). -/
def State.begin (s : State) : State :=
  { s.sampleShadows with start := s.snapshot }.record (.hook (s.reg .pc))

/-- `extra(m, r)`: operand words of a specifier (R102). -/
def extraWords (o : Operand) : Nat :=
  match o.mode, o.reg with
  | .index, _ => 1
  | .indexDeferred, _ => 1
  | .autoInc, .pc => 1
  | .autoIncDeferred, .pc => 1
  | _, _ => 0

/-- The aligned address of the opcode word that is fetched next (R34). -/
def State.fetchAddr (s : State) : Word := alignWord (s.reg .pc)

/-- Put the three words of an instruction (the longest has three, R102) where they are fetched next. -/
def State.placeWords (s : State) (w0 w1 w2 : Word) : State :=
  let a := s.fetchAddr
  ((s.storeMem .word a w0).storeMem .word (a + 2) w1).storeMem .word (a + 4) w2

/-- Clear everything that would keep the next step from fetching: the stuck and wait states, pending traps, requests,
waiting bus answers and the environment's next actions (R150). -/
def State.quiesce (s : State) : State :=
  { s with
    doubleFault := false, waitState := false, busFaultPending := false, tracePending := false
    irqState := 0, haltLine := false, powerFailReq := false, eventLatch := false, virq := false
    answers := [], inputs := [] }

end Sys2Proof.Machine
end

