-- ==== Sys2Proof/Machine/Step.lean ====
section
/-! DEFINITION. One step of the core (spec/40_dispatch_loop.md R150 to R158), and a state that fetches a given
instruction next. -/

namespace Sys2Proof.Machine

/-- The four outcomes of a step (R150). -/
inductive StepKind
  | stuck | trapTaken | idle | executed
deriving DecidableEq, Repr

/-- `execute_one()` (R152): start, fetch, decode, perform, complete; a failed fetch aborts (R158). -/
def executeOne (s : State) : Host.Outcome State Fault Refusal :=
  match fetchWord s.begin with
  | .ok w t => exec (decode w) t
  | .error .busFailure t => .next t.abortFetch
  | .error (.misaligned vec) _ => .fault (.vectorMisaligned vec)

/-- A step of the core once the environment has had its turn, with its outcome (R150). A stuck or waiting core holds
its state (R151, R504; DEDUCED, log 17). -/
def coreStep (s : State) : StepKind × Host.Outcome State Fault Refusal :=
  if s.doubleFault then (.stuck, .next s)
  else
    match arbitrate s with
    | .taken t => (.trapTaken, .next t)
    | .fault r => (.trapTaken, .fault r)
    | .idle t => if t.waitState then (.idle, .next t) else (.executed, executeOne t)

/-- One step of the machine: the environment's turn, then the core's (R19, R150, R162). -/
def step (s : State) : Host.Outcome State Fault Refusal := (coreStep s.takeInputs).2

/-- `s` with an instruction of the opcode table stored where the next step fetches, and nothing in the way of that
fetch; this stands for a program loaded from outside the machine (log 21). Bits are numbered as the table numbers
them, every bit above `nbits` is 0. -/
def State.withFetchWord (s : State) (nbits w : Nat) : State :=
  let v := w % 2 ^ nbits
  s.quiesce.placeWords (BitVec.ofNat 16 v) (BitVec.ofNat 16 (v / 2 ^ 16)) (BitVec.ofNat 16 (v / 2 ^ 32))

end Sys2Proof.Machine
end

