-- ==== Sys2Proof/Machine/Run.lean ====
section
/-! DEFINITION. The driver's entry points besides reset and step: `run(budget)` (spec/40_dispatch_loop.md R160) and
the read-only accessors (spec/00_scope.md R20, spec/10_state.md R42). -/

namespace Sys2Proof.Machine

/-- `TRAP_CYCLES`, positive and otherwise free (spec/70_reset_and_hazards.md R590; log 12). -/
def trapCycles : Nat := Config.trapCyclesLessOne + 1

/-- `CYCLES` of the instruction that the state executes next, positive and otherwise free (R590; log 12). -/
def instructionCycles (s : State) : Nat :=
  match fetchWord s.begin with
  | .ok w _ => Config.cyclesLessOne (decode w) + 1
  | .error _ _ => Config.abortedFetchCyclesLessOne + 1

/-- The state in which an executing step fetches: the arbiter has been consulted. -/
def State.arbitrated (s : State) : State :=
  match arbitrate s with
  | .idle t => t
  | .taken t => t
  | .fault _ => s

/-- The loop of `run`, with the cycles used so far; `s` is the state before the environment's turn. Every turn uses at
least one cycle, so the cycles left are fuel enough (R160). -/
def runLoop : Nat → Nat → Nat → State → Host.Outcome (Nat × State) Fault Refusal
  | 0, _, used, s => .next (used, s)
  | fuel + 1, budget, used, s =>
    if budget ≤ used then .next (used, s)
    else
      match coreStep s.takeInputs with
      | (_, .fault r) => .fault r
      | (_, .refused r) => .refused r
      | (.stuck, .next t) => .next (budget, t)
      | (.idle, .next t) => .next (budget, t)
      | (.trapTaken, .next t) => runLoop fuel budget (used + trapCycles) t
      | (.executed, .next t) => runLoop fuel budget (used + instructionCycles s.takeInputs.arbitrated) t

/-- The rest of a `run(budget)` that has used some cycles: its consumed cycles and the state reached (R160). -/
def runFrom (budget used : Nat) (s : State) : Host.Outcome (Nat × State) Fault Refusal :=
  runLoop (budget - used) budget used s

/-- `run(budget)`: the cycles consumed and the state reached (R160). -/
def run (budget : Nat) (s : State) : Host.Outcome (Nat × State) Fault Refusal := runFrom budget 0 s

/-- What the read-only accessors show (R20, R42, R45). -/
structure View where
  regs          : Regs
  psw           : Word
  ppc           : Word
  ppsw          : Word
  busFaultCount : Nat
deriving DecidableEq, Repr

/-- The snapshot accessors; they read and change nothing (R20). -/
def State.view (s : State) : View := ⟨s.regs, s.psw, s.ppc, s.ppsw, s.busFaultCount⟩

end Sys2Proof.Machine
end

