-- ==== Sys2Proof/Safety.lean ====
section
/-! DEFINITION. What claims about the machine speak of: the invariant of a run, a bus that answers, the state an
instruction runs on, and a state in which nothing stands before the next fetch. -/

namespace Sys2Proof.Machine

/-- A PSW value holds only implemented bits (spec/10_state.md R36, R41). -/
def pswFits (v : Variant) (p : Word) : Bool := p &&& ~~~pswImpl v == 0

/-- The invariant of every run: memory is in its canonical form, each PSW copy holds implemented bits alone
(R36, R41), and the bank follows the mode bit: PRIV exactly in the privileged mode of the EXTENDED variant
(spec/60_exceptions.md R541; spec/20_memory.md R85). -/
structure State.Inv (s : State) : Prop where
  memory : s.mem.wf = true
  psw    : pswFits s.params.variant s.psw = true
  ppsw   : pswFits s.params.variant s.ppsw = true
  start  : pswFits s.params.variant s.start.psw = true
  bank   : s.bank = bankOf (s.extended && flagH s.psw)

/-- No bus access of the state's future fails: odd word accesses align (the spec's ODD_WORD_POLICY,
spec/20_memory.md R74) and no waiting answer is a failure. -/
structure State.BusServes (s : State) : Prop where
  aligns  : s.params.oddWord = .align
  answers : BusAnswer.fail ∉ s.answers

/-- As `BusServes`, and every access is answered by plain memory. -/
structure State.PlainBus (s : State) : Prop where
  aligns  : s.params.oddWord = .align
  answers : s.answers = []

/-- The state an instruction runs on: S0 holds its registers, but for PC, and its PSW (spec/40_dispatch_loop.md
R152). Every step runs `exec` on such a state. -/
structure State.Started (s : State) : Prop where
  regs : s.start.regs = s.regs.set .pc s.start.regs.pc
  psw  : s.start.psw = s.psw

/-- Nothing stands before the next fetch: not stuck, not waiting, no environment action, and the arbiter takes no trap
and changes nothing (spec/40_dispatch_loop.md R150). -/
structure State.Undisturbed (s : State) : Prop where
  notStuck   : s.doubleFault = false
  notWaiting : s.waitState = false
  noInput    : s.inputs = []
  noTrap     : arbitrate s = .idle s

/-- The state in which `exec` runs the next instruction, when its opcode fetch succeeds: S0 and the shadows taken,
the hook called, the word read at the even address, PC past it (spec/40_dispatch_loop.md R152 to R154). -/
def State.fetched (s : State) : State :=
  let frozen := s.extended && flagH s.psw
  { s with
    regs    := s.regs.set .pc (s.fetchAddr + 2)
    ppc     := if frozen then s.ppc else s.reg .pc
    ppsw    := if frozen then s.ppsw else s.psw
    answers := s.answers.tail
    calls   := .read s.fetchAddr .word :: .hook (s.reg .pc) :: s.calls
    start   := s.snapshot }

/-- The word is in one of the ranges of spec/30_encoding.md R117. -/
def ReservedWord (w : Word) : Prop :=
  (0x0007 ≤ w ∧ w ≤ 0x003F) ∨ (0x0088 ≤ w ∧ w ≤ 0x009F) ∨ (0x0D40 ≤ w ∧ w ≤ 0x0DBF) ∨ (0x0E00 ≤ w ∧ w ≤ 0x0FFF) ∨
  (0x7000 ≤ w ∧ w ≤ 0x77FF) ∨ (0x7A00 ≤ w ∧ w ≤ 0x7DFF) ∨ (0x8D40 ≤ w ∧ w ≤ 0x8DBF) ∨ (0x8E00 ≤ w ∧ w ≤ 0x8FFF) ∨
  (0xF000 ≤ w ∧ w ≤ 0xFFFF)

/-- The width of an operand size (spec/42_flag_engine.md R221). -/
def Size.width : Size → Nat
  | .word => 16
  | .byte => 8

/-- The unsigned value of an operand. -/
def unsignedValue (sz : Size) (v : Word) : Nat := v.toNat % 2 ^ sz.width

/-- The two's-complement value of an operand (R226). -/
def signedValue (sz : Size) (v : Word) : Int :=
  if unsignedValue sz v < 2 ^ (sz.width - 1) then unsignedValue sz v else (unsignedValue sz v : Int) - 2 ^ sz.width

/-- The number is outside the signed range of a size (R226). -/
def overflows (sz : Size) (n : Int) : Prop := n < -(2 ^ (sz.width - 1)) ∨ 2 ^ (sz.width - 1) ≤ n

/-- N and Z of the PSW follow the result (R220), and every bit above the condition codes is kept (R225). -/
structure FollowsResult (sz : Size) (r p q : Word) : Prop where
  n    : flagN q = r.getLsbD (sz.width - 1)
  z    : flagZ q = decide (unsignedValue sz r = 0)
  rest : ∀ i, 4 ≤ i → q.getLsbD i = p.getLsbD i

/-! ### The shapes of a completed instruction: the accesses made, in order, and the state they end in -/

/-- A source is read, then the destination is resolved, read and written once with `f`'s result, then the PSW. -/
def Combines (sz : Size) (src dst : Operand) (f : Word → Word → Word → Word × Word) (s : State)
    (out : Host.Outcome State Fault Refusal) : Prop :=
  ∃ v s1 l s2 x s3 s4, readOperand sz src s = .ok v s1 ∧ resolve sz dst s1 = .ok l s2 ∧
    readResolved sz dst l s2 = .ok x s3 ∧
    locWrite sz l (f v x s3.psw).1 s3 = .ok () s4 ∧
    out = .next ((s4.setPsw (f v x s3.psw).2).complete .ordinary)

/-- The destination is resolved, read and written once with `f`'s result, then the PSW. -/
def Modifies (sz : Size) (dst : Operand) (f : Word → Word → Word × Word) (s : State)
    (out : Host.Outcome State Fault Refusal) : Prop :=
  ∃ l s1 x s2 s3, resolve sz dst s = .ok l s1 ∧ readResolved sz dst l s1 = .ok x s2 ∧
    locWrite sz l (f x s2.psw).1 s2 = .ok () s3 ∧
    out = .next ((s3.setPsw (f x s2.psw).2).complete .ordinary)

/-- The destination is resolved and written, never read, then the PSW. -/
def Overwrites (sz : Size) (dst : Operand) (f : Word → Word × Word) (s : State)
    (out : Host.Outcome State Fault Refusal) : Prop :=
  ∃ l s1 s2, resolve sz dst s = .ok l s1 ∧ locWrite sz l (f s1.psw).1 s1 = .ok () s2 ∧
    out = .next ((s2.setPsw (f s1.psw).2).complete .ordinary)

/-- The operand is read and nothing but the PSW is written. -/
def Inspects (sz : Size) (o : Operand) (f : Word → Word → Word) (s : State)
    (out : Host.Outcome State Fault Refusal) : Prop :=
  ∃ x s1, readOperand sz o s = .ok x s1 ∧ out = .next ((s1.setPsw (f x s1.psw)).complete .ordinary)

/-- Two operands are read, the source first, and nothing but the PSW is written. -/
def Compares (sz : Size) (src dst : Operand) (f : Word → Word → Word → Word) (s : State)
    (out : Host.Outcome State Fault Refusal) : Prop :=
  ∃ v s1 x s2, readOperand sz src s = .ok v s1 ∧ readOperand sz dst s1 = .ok x s2 ∧
    out = .next ((s2.setPsw (f v x s2.psw)).complete .ordinary)

/-- The destination is resolved and the byte `v` stored, sign-extended into a register; N and Z follow `v`, V is 0. -/
def StoresByte (dst : Operand) (v : Word) (s : State) (out : Host.Outcome State Fault Refusal) : Prop :=
  ∃ l s1 s2, resolve .byte dst s = .ok l s1 ∧ storeExtended l v s1 = .ok () s2 ∧
    out = .next ((s2.setPsw (logicFlags .byte v s2.psw)).complete .ordinary)

/-- A branch: PC moves by twice the signed offset where the test holds, and nothing else changes but the trace latch. -/
def branched (taken : Bool) (off : BitVec 8) (s : State) : Host.Outcome State Fault Refusal :=
  .next (State.complete (if taken then s.setReg .pc (s.reg .pc + 2 * off.signExtend 16) else s) .ordinary)

/-- The trap sequence of either variant runs to its end `t`: the mode is left, the vector's PC and PSW are read, the
old PSW and then the old PC are pushed, the new ones are installed (spec/60_exceptions.md R475, R476). -/
def TrapEnters (vec : Word) (s t : State) : Prop :=
  ∃ newPc s1 newPsw s2 s3 s4,
    memRead .word vec s.leavePrivileged = .ok newPc s1 ∧ memRead .word (vec + 2) s1 = .ok newPsw s2 ∧
    memWrite .word (s2.reg .sp - 2) s2.psw (s2.setReg .sp (s2.reg .sp - 2)) = .ok () s3 ∧
    memWrite .word (s3.reg .sp - 2) (s3.reg .pc) (s3.setReg .sp (s3.reg .sp - 2)) = .ok () s4 ∧
    t = s4.install newPc newPsw

/-- The halt path runs to its end `t`: H is set and the privileged bank mapped, the pair at HALT_VECTOR is read, the
PSW from before and then the PC are pushed, the new ones are installed with H = 1 (spec/60_exceptions.md R530). -/
def HaltEnters (s t : State) : Prop :=
  ∃ newPc s1 newPsw s2 s3 s4,
    memRead .word s.params.haltVector s.enterHalt = .ok newPc s1 ∧
    memRead .word (s.params.haltVector + 2) s1 = .ok newPsw s2 ∧
    memWrite .word (s2.reg .sp - 2) s.psw (s2.setReg .sp (s2.reg .sp - 2)) = .ok () s3 ∧
    memWrite .word (s3.reg .sp - 2) (s3.reg .pc) (s3.setReg .sp (s3.reg .sp - 2)) = .ok () s4 ∧
    t = s4.installHalt newPc newPsw

/-- PC and then PSW are popped, and the bank follows the mode bit (spec/46_system_instructions.md R422). -/
def Returns (how : Completion) (s : State) (out : Host.Outcome State Fault Refusal) : Prop :=
  ∃ newPc s1 newPsw s2, memRead .word (s.reg .sp) s = .ok newPc s1 ∧
    memRead .word (s1.reg .sp + 2) (s1.setReg .sp (s1.reg .sp + 2)) = .ok newPsw s2 ∧
    out = .next ((((s2.setReg .sp (s2.reg .sp + 2)).setReg .pc newPc).writePsw newPsw).bankFollows (flagH s2.psw)
      |>.complete how)

/-- The condition-code operators: the instruction, its S bit and its mask (spec/30_encoding.md R109). -/
def ccForms : List (Instr × Bool × BitVec 4) :=
  [(.nop, false, 0x0), (.clc, false, 0x1), (.clv, false, 0x2), (.clvc, false, 0x3),
   (.clz, false, 0x4), (.clzc, false, 0x5), (.clzv, false, 0x6), (.clzvc, false, 0x7),
   (.cln, false, 0x8), (.clnc, false, 0x9), (.clnv, false, 0xA), (.clnvc, false, 0xB),
   (.clnz, false, 0xC), (.clnzc, false, 0xD), (.clnzv, false, 0xE), (.ccc, false, 0xF),
   (.se0, true, 0x0), (.sec, true, 0x1), (.sev, true, 0x2), (.sevc, true, 0x3),
   (.sez, true, 0x4), (.sezc, true, 0x5), (.sezv, true, 0x6), (.sezvc, true, 0x7),
   (.sen, true, 0x8), (.senc, true, 0x9), (.senv, true, 0xA), (.senvc, true, 0xB),
   (.senz, true, 0xC), (.senzc, true, 0xD), (.senzv, true, 0xE), (.scc, true, 0xF)]

/-- The state after a BASE trap on a bus where plain memory answers, written out. -/
def State.baseEntry (s : State) (vec : Word) : State :=
  let a := alignWord (s.reg .sp - 2)
  let b := alignWord (s.reg .sp - 4)
  { s with
    regs      := (s.regs.set .sp (s.reg .sp - 4)).set .pc (s.memValue .word vec)
    psw       := s.memValue .word (vec + 2) &&& 0x00FF
    mem       := ((s.storeMem .word a s.psw).storeMem .word b (s.reg .pc)).mem
    waitState := false
    calls     := .write b .word (s.reg .pc) :: .write a .word s.psw :: .read (vec + 2) .word :: .read vec .word ::
      s.calls }

/-! ### Frames -/

/-- Everything but registers, PSW, memory, the bus-fault record, the trace latch, and the answers and calls of the bus
is the same. -/
structure RestKept (s t : State) : Prop where
  params       : t.params = s.params
  ppc          : t.ppc = s.ppc
  ppsw         : t.ppsw = s.ppsw
  waitState    : t.waitState = s.waitState
  doubleFault  : t.doubleFault = s.doubleFault
  eventLatch   : t.eventLatch = s.eventLatch
  powerFailReq : t.powerFailReq = s.powerFailReq
  haltLine     : t.haltLine = s.haltLine
  virq         : t.virq = s.virq
  irqState     : t.irqState = s.irqState
  bank         : t.bank = s.bank
  chain        : t.chain = s.chain
  irqAnswers   : t.irqAnswers = s.irqAnswers
  inputs       : t.inputs = s.inputs
  start        : t.start = s.start

/-- The bus-fault record changes by one failure at most, and the trace latch is set at most, and only under T
(spec/20_memory.md R76; spec/40_dispatch_loop.md R157). -/
structure LatchesFollow (s t : State) : Prop where
  failures : (t.busFaultPending = s.busFaultPending ∧ t.busFaultCount = s.busFaultCount) ∨
    (t.busFaultPending = true ∧ t.busFaultCount = s.busFaultCount + 1)
  trace    : t.tracePending = s.tracePending ∨ (flagT s.start.psw = true ∧ t.tracePending = true)

/-- The frame of an instruction: only the registers `written`, the PSW bits `status` and the memory bytes `stored` may
differ, besides the bus-fault record and the trace latch. -/
structure Frame (written : Reg → Prop) (status : Nat → Prop) (stored : Nat → Prop) (s t : State) : Prop where
  rest    : RestKept s t
  latches : LatchesFollow s t
  regs    : ∀ r, ¬ written r → t.reg r = s.reg r
  psw     : ∀ i, ¬ status i → t.psw.getLsbD i = s.psw.getLsbD i
  memory  : ∀ p, ¬ stored p → t.mem.read p = s.mem.read p

/-- The register is stepped by the operand's autoincrement or autodecrement mode. -/
def stepsReg (o : Operand) (r : Reg) : Prop :=
  o.reg = r ∧ (o.mode = .autoInc ∨ o.mode = .autoIncDeferred ∨ o.mode = .autoDec ∨ o.mode = .autoDecDeferred)

/-- The registers an instruction of two operands may write: PC, those its modes step, and its destination. -/
def writesTwo (src dst : Operand) (r : Reg) : Prop :=
  r = .pc ∨ stepsReg src r ∨ stepsReg dst r ∨ dst = ⟨.register, r⟩

/-- The registers an instruction of one destination may write. -/
def writesOne (dst : Operand) (r : Reg) : Prop := r = .pc ∨ stepsReg dst r ∨ dst = ⟨.register, r⟩

/-- The four condition codes. -/
def flagsNZVC (i : Nat) : Prop := i < 4

/-- N, Z and V. -/
def flagsNZV (i : Nat) : Prop := 1 ≤ i ∧ i < 4

/-- The address a destination stores to, `none` for a register or where resolving it fails. -/
def destAddr (sz : Size) (dst : Operand) (s : State) : Option Word :=
  match resolve sz dst s with
  | .ok (.mem a) _ => some (accessAddr sz a)
  | _ => none

/-- The same after a source operand has been read, `none` also where that read fails. -/
def destAddrAfter (sz : Size) (src dst : Operand) (s : State) : Option Word :=
  match readOperand sz src s with
  | .ok _ t => destAddr sz dst t
  | .error _ _ => none

/-- The stack slot JSR pushes to: the word below SP as it stands once the destination has been resolved. -/
def linkSlot (dst : Operand) (s : State) : Option Word :=
  match resolve .word dst s with
  | .ok (.mem _) t => some (alignWord (t.reg .sp - 2))
  | _ => none

/-- The physical byte belongs to a store of a size at the address, where there is one. -/
def storedAt (sz : Size) (target : Option Word) (s : State) (p : Nat) : Prop :=
  ∃ a, target = some a ∧ p ∈ s.storeBytes sz a

/-- What no exception and no return from one touches. -/
structure ExceptionKept (s t : State) : Prop where
  params       : t.params = s.params
  ppc          : t.ppc = s.ppc
  ppsw         : t.ppsw = s.ppsw
  doubleFault  : t.doubleFault = s.doubleFault
  eventLatch   : t.eventLatch = s.eventLatch
  powerFailReq : t.powerFailReq = s.powerFailReq
  haltLine     : t.haltLine = s.haltLine
  virq         : t.virq = s.virq
  irqState     : t.irqState = s.irqState
  chain        : t.chain = s.chain
  irqAnswers   : t.irqAnswers = s.irqAnswers
  inputs       : t.inputs = s.inputs
  start        : t.start = s.start
  regs         : ∀ r, r ≠ .sp → r ≠ .pc → t.reg r = s.reg r

/-- The frame of an instruction that takes a trap: SP and PC, the whole PSW, the wait state and the bank may change,
and of memory the two words pushed below SP, in the mapping of `push`. -/
structure TrapFrame (push s t : State) : Prop where
  kept    : ExceptionKept s t
  latches : LatchesFollow s t
  memory  : ∀ p, p ∉ push.storeBytes .word (alignWord (s.reg .sp - 2)) →
    p ∉ push.storeBytes .word (alignWord (s.reg .sp - 4)) → t.mem.read p = s.mem.read p

/-- The frame of a trap return: SP and PC, the whole PSW and the bank may change. -/
structure ReturnFrame (s t : State) : Prop where
  kept      : ExceptionKept s t
  waitState : t.waitState = s.waitState
  memory    : t.mem = s.mem

/-- The instruction replaces the whole PSW, takes a trap, or is MTPS. -/
def installsPsw : Instr → Bool
  | .halt | .rti | .rtt | .bpt | .iot | .emt _ | .trap _ | .mtps _ | .reserved0007 => true
  | .jmp dst | .jsr _ dst => dst.mode == .register
  | i => i.row.mnemonic == "RESERVED"

/-- The sequence an instruction takes as its own effect: a trap, or the halt path; none for the others
(spec/46_system_instructions.md R420 to R428, R450; spec/45_control_transfer.md R380, R381). -/
def sequenceOf (i : Instr) (s : State) : Option (Act Unit) :=
  match i with
  | .bpt => some (trap 0x000C)
  | .iot => some (trap 0x0010)
  | .emt _ => some (trap 0x0018)
  | .trap _ => some (trap 0x001C)
  | .halt => some (if s.extended then haltPath else trap 0x0004)
  | .jmp dst | .jsr _ dst => if dst.mode = .register then some (trap 0x0008) else none
  | i => if i.row.mnemonic = "RESERVED" then some (trap 0x0008) else none

/-- The environment's next batch holds no reset. -/
def State.NoReset (s : State) : Prop := ∀ b, EnvInput.reset b ∉ s.inputs.headD []

/-- The state reached from `s` by `n` steps, if no step stops. -/
def State.after (s : State) (n : Nat) : Host.Outcome State Fault Refusal := Host.Core.run core n s

end Sys2Proof.Machine
end

