-- ==== Sys2Proof/Certificates/Slice0/Obligations.lean ====
section
/-! DEFINITION. The statements about the machine, for the provers. Each docstring names the rules of spec/ it follows;
where a clause rests on a choice of the model, it names the log entry. -/

open Sys2Proof Sys2Proof.Machine

/-! ### Encoding -/

/-- Words written out from the encodings of spec/30_encoding.md R104 to R110 decode to the instruction they stand
for, one or more of each format. -/
def Obligations.WrittenWordsDecode : Prop :=
  decode 0x145F = .mov ⟨.autoInc, .r1⟩ ⟨.autoIncDeferred, .pc⟩ ∧
  decode 0x9042 = .movb ⟨.register, .r1⟩ ⟨.register, .r2⟩ ∧
  decode 0x6C40 = .add ⟨.index, .r1⟩ ⟨.register, .r0⟩ ∧
  decode 0xE042 = .sub ⟨.register, .r1⟩ ⟨.register, .r2⟩ ∧
  decode 0x7850 = .xor .r1 ⟨.autoInc, .r0⟩ ∧
  decode 0x09DF = .jsr .pc ⟨.autoIncDeferred, .pc⟩ ∧
  decode 0x0049 = .jmp ⟨.deferred, .r1⟩ ∧
  decode 0x0087 = .rts .pc ∧
  decode 0x7E42 = .sob .r1 2 ∧
  decode 0x0D02 = .mark 2 ∧
  decode 0x0A10 = .clr ⟨.autoInc, .r0⟩ ∧
  decode 0x8BD6 = .tstb ⟨.autoInc, .sp⟩ ∧
  decode 0x8D17 = .mtps ⟨.autoInc, .pc⟩ ∧
  decode 0x8180 = .bmi 0x80 ∧
  decode 0x01FF = .br 0xFF ∧
  decode 0x882A = .emt 0x2A ∧
  decode 0x8905 = .trap 5 ∧
  decode 0x00A5 = .clzc ∧
  decode 0x0000 = .halt ∧
  decode 0x0006 = .rtt ∧
  decode 0x7000 = .reserved7000 0x7000

/-- Decoding what the encoder gives for a well-formed instruction gives the instruction back, with every operand at
every value (spec/30_encoding.md R103 to R110, R119). -/
def Obligations.DecodeOfEncode : Prop :=
  ∀ i : Instr, i.wf = true → decode (encode i) = i

/-- Every word decodes to a well-formed instruction that encodes to that word: no bit of a word is dropped, and
decoding is total (spec/40_dispatch_loop.md R155). -/
def Obligations.EncodeOfDecode : Prop :=
  ∀ w : Word, (decode w).wf = true ∧ encode (decode w) = w

/-- Exactly one row of the opcode table matches a word, and it is the row of the decoded instruction
(spec/30_encoding.md R115). -/
def Obligations.OneRowForEachWord : Prop :=
  ∀ w : Word, ∃ r ∈ opcodeTable, w &&& r.mask = r.pat ∧ (decode w).row = r ∧
    ∀ q ∈ opcodeTable, w &&& q.mask = q.pat → q = r

/-- The words that decode to a RESERVED row are those of the nine ranges of spec/30_encoding.md R117 (R119). -/
def Obligations.ReservedRanges : Prop :=
  ∀ w : Word, (decode w).row.mnemonic = "RESERVED" ↔ ReservedWord w

/-! ### The step -/

/-- Where nothing stands before the fetch, a step is `exec` of the instruction decoded from the word at the even
address PC & 0xFFFE, in the state with S0 and the shadows taken and PC past that word (spec/40_dispatch_loop.md R150,
R152 to R155). The word is what memory holds, or what a device answers. -/
def Obligations.StepRunsDecodedInstruction : Prop :=
  ∀ s : State, s.Undisturbed →
    s.fetched.Started ∧
    (s.nextAnswer = .memory → step s = exec (decode (s.memValue .word s.fetchAddr)) s.fetched) ∧
    (∀ v, s.nextAnswer = .device v → step s = exec (decode v) s.fetched)

/-- A failed opcode fetch leaves registers and PSW as they were, under either FAULT_PC_POLICY, and records the failure
(spec/40_dispatch_loop.md R154, R158; spec/20_memory.md R76). -/
def Obligations.FailedFetchAborts : Prop :=
  ∀ s : State, s.Undisturbed → s.nextAnswer = .fail →
    ∃ t, step s = .next t ∧ t.regs = s.regs ∧ t.psw = s.psw ∧ t.mem = s.mem ∧ t.bank = s.bank ∧
      t.tracePending = s.tracePending ∧ t.busFaultPending = true ∧ t.busFaultCount = s.busFaultCount + 1

/-- From `State.reset`, which is the BASE machine with bank index 4 (DESIGN CHOICE, log 3), the next step runs exactly
the instruction of a placed word: the model's way to load a program (DESIGN CHOICE, log 21), over
spec/70_reset_and_hazards.md R572. -/
def Obligations.PlacedWordRunsAfterReset : Prop :=
  ∀ (nbits w : Nat) (i : Instr), decodeTableWord nbits w = some i →
    step (State.reset.withFetchWord nbits w) = exec i (State.reset.withFetchWord nbits w).fetched

/-- A stuck core holds its state until reset: a step makes the environment's changes and no other
(spec/60_exceptions.md R504; spec/10_state.md R46; that Stuck answers the same state: DEDUCED, log 17). -/
def Obligations.StuckUntilReset : Prop :=
  ∀ s : State, s.doubleFault = true → s.NoReset →
    step s = .next s.takeInputs ∧ s.takeInputs.doubleFault = true

/-- A waiting core that the arbiter leaves alone holds its registers, PSW, wait state and memory, and only a trap or a
reset ends a wait (spec/40_dispatch_loop.md R151; spec/60_exceptions.md R477; that Idle answers a next state: DEDUCED,
log 17). -/
def Obligations.WaitHoldsUntilTrap : Prop :=
  ∀ s : State, s.waitState = true → s.NoReset →
    (∀ t, s.doubleFault = false → arbitrate s.takeInputs = .idle t → step s = .next t ∧ t.regs = s.regs ∧
      t.psw = s.psw ∧ t.waitState = true ∧ t.ppc = s.ppc ∧ t.mem = s.takeInputs.mem) ∧
    (∀ t, step s = .next t → t.waitState = false → (coreStep s.takeInputs).1 = .trapTaken)

/-- An arbiter call that takes no trap changes no core state but VIRQ, which it may clear in the EXTENDED variant, and
no peripheral; a second call then takes none either (spec/60_exceptions.md R470, R526, R547; that a peripheral which
declines or answers 0 stays pending: DEDUCED, log 8). -/
def Obligations.IdleArbiterChangesNothing : Prop :=
  ∀ s t : State, arbitrate s = .idle t →
    t = { s with virq := t.virq, calls := t.calls } ∧
    (t.virq = s.virq ∨ (s.extended = true ∧ t.virq = false)) ∧
    (s.extended = false → t = s) ∧ arbitrate t = .idle t

/-- Nothing is refused, every bus failure is an outcome of a step, and the only stop is the fault of a vector that is
not a multiple of 4; of the instructions only HALT of the EXTENDED variant can reach it, through HALT_VECTOR
(spec/60_exceptions.md R478, R501). That it is the only stop is the model's choice: the spec also stops a read of a
register nothing has written (spec/10_state.md R32), which here holds a value (DESIGN CHOICE, log 1). -/
def Obligations.OnlyMisalignedVectorsStop : Prop :=
  (∀ i s r, exec i s ≠ .refused r) ∧ (∀ s r, step s ≠ .refused r) ∧
  (∀ s f, step s = .fault f → ∃ vec : Word, f = .vectorMisaligned vec ∧ vec &&& 3 ≠ 0) ∧
  (∀ i s f, exec i s = .fault f →
    i = .halt ∧ s.extended = true ∧ s.params.haltVector &&& 3 ≠ 0 ∧ f = .vectorMisaligned s.params.haltVector) ∧
  (∀ s : State, s.extended = true → s.params.haltVector &&& 3 ≠ 0 →
    exec .halt s = .fault (.vectorMisaligned s.params.haltVector))

/-- BUS_FAULT_COUNT never falls but by reset (spec/10_state.md R45). -/
def Obligations.FaultCountNeverFalls : Prop :=
  ∀ s t : State, s.NoReset → step s = .next t → s.busFaultCount ≤ t.busFaultCount

/-! ### Reset and the invariant -/

/-- The values the spec gives for reset, of either variant and any reset bank; bank index 4 starts at 0x1000
(spec/10_state.md R52, R53; spec/70_reset_and_hazards.md R573). -/
def Obligations.ResetValues : Prop :=
  (∀ (p : Params) (b : BitVec 3), let s := State.resetWith p b
    s.reg .sp = 0x00FE ∧ s.reg .pc = p.initialPc.get b.toFin ∧ s.psw = 0x00E0 ∧ s.waitState = false ∧
    s.tracePending = false ∧ s.busFaultPending = false ∧ s.busFaultCount = 0 ∧ s.doubleFault = false ∧
    (p.variant = .extended → s.eventLatch = false ∧ s.powerFailReq = false ∧ s.virq = false ∧ s.bank = .nonpriv ∧
      s.calls = [.bankSwitch .nonpriv])) ∧
  ∀ p : Params, p.initialPc = Config.initialPcTable →
    (State.resetWith p 4).reg .pc = 0x1000 ∧ (State.resetWith p 4).psw = 0x00E0

/-- The state after reset meets the invariant, of either variant and any reset bank (spec/10_state.md R53, R41). The
clause about PPSW rests on the zero the model gives it, where the spec allows any value (DESIGN CHOICE, log 2). -/
def Obligations.ResetMeetsInvariant : Prop :=
  ∀ (p : Params) (b : BitVec 3), (State.resetWith p b).Inv

/-- Every step keeps the invariant: memory stays in its canonical form, no PSW copy gets an unimplemented bit
(spec/10_state.md R36, R41), and the memory bank is the privileged one exactly when H is set in the EXTENDED variant
(spec/20_memory.md R85; spec/60_exceptions.md R541); no step changes the parameters or the number of peripherals in
CHAIN (spec/60_exceptions.md R529). Where the environment's batch resets the core, the clause about PPSW rests on the
zero the model gives it, where the spec allows any value (DESIGN CHOICE, logs 2 and 22). -/
def Obligations.StepKeepsInvariant : Prop :=
  ∀ s t : State, s.Inv → step s = .next t →
    t.Inv ∧ t.params = s.params ∧ t.chain.length = s.chain.length

/-- Reset of a running machine, in any state, stuck and waiting ones among them: SP, PC and PSW get the reset values,
no trap is pending, memory is not touched, and the step goes on to execute the instruction at INITIAL_PC, unless an
EXTENDED halt pin is asserted, which takes the halt path (spec/70_reset_and_hazards.md R570 to R572). -/
def Obligations.ResetOfRunningMachine : Prop :=
  ∀ (s : State) (b : BitVec 3) (rest : List (List EnvInput)), s.inputs = [.reset b] :: rest →
    let t := s.takeInputs
    t.reg .sp = 0x00FE ∧ t.reg .pc = s.params.initialPc.get b.toFin ∧ t.psw = 0x00E0 ∧ t.waitState = false ∧
    t.tracePending = false ∧ t.busFaultPending = false ∧ t.busFaultCount = 0 ∧ t.doubleFault = false ∧
    t.mem = s.mem ∧ t.chain = s.chain ∧
    (s.extended = true → t.eventLatch = false ∧ t.powerFailReq = false ∧ t.virq = false ∧ t.bank = .nonpriv ∧
      t.calls = .bankSwitch .nonpriv :: s.calls) ∧
    ((s.extended = true → s.haltLine = false) → coreStep t = (.executed, executeOne t)) ∧
    (s.extended = true → s.haltLine = true → arbitrate t = takeAtBoundary haltPath id t)

/-! ### Memory and the bus -/

/-- A word store puts the low byte at the even address and the high byte above it, and changes nothing else; the word
reads back, and its bytes read at their own addresses. A byte store changes one byte. Where plain memory answers, and
the mapper does not map the word's two bytes to one, each byte being mapped by itself (DESIGN CHOICE, log 27;
spec/20_memory.md R71 to R73, R81). -/
def Obligations.StoreThenRead : Prop :=
  ∀ (s : State) (a v : Word), s.PlainBus → s.mem.wf = true →
    (s.phys (alignWord a) ≠ s.phys (alignWord a + 1) →
      ∃ t, memWrite .word a v s = .ok () t ∧ t.memByte (alignWord a) = lowByte v ∧
        t.memByte (alignWord a + 1) = highByte v ∧
        (∀ p, p ∉ s.storeBytes .word (alignWord a) → t.mem.read p = s.mem.read p) ∧
        (∃ u, memRead .word a t = .ok v u ∧ u.mem = t.mem) ∧
        (∃ u, memRead .byte (alignWord a) t = .ok (v &&& 0x00FF) u) ∧
        (∃ u, memRead .byte (alignWord a + 1) t = .ok (v >>> 8) u)) ∧
    (∃ t, memWrite .byte a v s = .ok () t ∧ t.memByte a = lowByte v ∧
      (∀ p, p ≠ s.phys a → t.mem.read p = s.mem.read p) ∧ ∃ u, memRead .byte a t = .ok (v &&& 0x00FF) u)

/-- A word access at an odd address goes ahead at the even address under ALIGN and is a bus failure under FAULT; a byte
access needs no alignment (spec/20_memory.md R74; that the core fails it before any call: DEDUCED, log 15). A failed
access sets BUS_FAULT_PENDING, adds 1 to BUS_FAULT_COUNT and changes no memory (R76). -/
def Obligations.OddWordsAndFailures : Prop :=
  (∀ (s : State) (a v : Word), s.params.oddWord = .align →
    memRead .word a s = memRead .word (a &&& 0xFFFE) s ∧ memWrite .word a v s = memWrite .word (a &&& 0xFFFE) v s) ∧
  (∀ (s : State) (a v : Word), s.params.oddWord = .fault → a.getLsbD 0 = true →
    memRead .word a s = .error .busFailure { s with busFaultPending := true, busFaultCount := s.busFaultCount + 1 } ∧
    memWrite .word a v s =
      .error .busFailure { s with busFaultPending := true, busFaultCount := s.busFaultCount + 1 }) ∧
  (∀ (s : State) (a v : Word), memRead .byte a s = busRead .byte a s ∧ memWrite .byte a v s = busWrite .byte a v s) ∧
  (∀ (s : State) (sz : Size) (a v : Word), s.nextAnswer = .fail →
    (∃ t, memRead sz a s = .error .busFailure t ∧ t.busFaultPending = true ∧
      t.busFaultCount = s.busFaultCount + 1 ∧ t.mem = s.mem ∧ t.regs = s.regs ∧ t.psw = s.psw) ∧
    (∃ t, memWrite sz a v s = .error .busFailure t ∧ t.busFaultPending = true ∧
      t.busFaultCount = s.busFaultCount + 1 ∧ t.mem = s.mem ∧ t.regs = s.regs ∧ t.psw = s.psw))

/-! ### Operands -/

/-- The eight modes: the location each gives and the state it leaves, where plain memory answers
(spec/41_addressing_modes.md R186, R190 to R197, R199). -/
def Obligations.ModeLocations : Prop :=
  ∀ (s : State) (r : Reg) (sz : Size), s.PlainBus →
    let by_ : Word := if sz = .word ∨ r = .sp ∨ r = .pc then 2 else 1
    let x := alignWord (s.reg .pc)
    let f := (s.setReg .pc (x + 2)).afterCall (.read x .word)
    let p := s.memValue .word x + f.reg r
    resolve sz ⟨.register, r⟩ s = .ok (.reg r) s ∧
    resolve sz ⟨.deferred, r⟩ s = .ok (.mem (s.reg r)) s ∧
    resolve sz ⟨.autoInc, r⟩ s = .ok (.mem (s.reg r)) (s.setReg r (s.reg r + by_)) ∧
    resolve sz ⟨.autoIncDeferred, r⟩ s = .ok (.mem (s.memValue .word (alignWord (s.reg r))))
      ((s.setReg r (s.reg r + 2)).afterCall (.read (alignWord (s.reg r)) .word)) ∧
    resolve sz ⟨.autoDec, r⟩ s = .ok (.mem (s.reg r - by_)) (s.setReg r (s.reg r - by_)) ∧
    resolve sz ⟨.autoDecDeferred, r⟩ s = .ok (.mem (s.memValue .word (alignWord (s.reg r - 2))))
      ((s.setReg r (s.reg r - 2)).afterCall (.read (alignWord (s.reg r - 2)) .word)) ∧
    resolve sz ⟨.index, r⟩ s = .ok (.mem p) f ∧
    resolve sz ⟨.indexDeferred, r⟩ s = .ok (.mem (s.memValue .word (alignWord p)))
      (f.afterCall (.read (alignWord p) .word))

/-- Access to a location: a byte read of a register gives its low byte, a byte written to a register keeps bits 15:8,
the byte store of MOVB and MFPS extends the sign, and a memory location is one access of the size
(spec/41_addressing_modes.md R181; spec/10_state.md R31). -/
def Obligations.LocationAccess : Prop :=
  ∀ (s : State) (r : Reg) (a v : Word),
    locRead .word (.reg r) s = .ok (s.reg r) s ∧
    locRead .byte (.reg r) s = .ok (s.reg r &&& 0x00FF) s ∧
    (∀ sz, locRead sz (.mem a) s = memRead sz a s ∧ locWrite sz (.mem a) v s = memWrite sz a v s) ∧
    locWrite .word (.reg r) v s = .ok () (s.setReg r v) ∧
    locWrite .byte (.reg r) v s = .ok () (s.setReg r ((s.reg r &&& 0xFF00) ||| (v &&& 0x00FF))) ∧
    storeExtended (.reg r) v s = .ok () (s.setReg r (if v.getLsbD 7 then v ||| 0xFF00 else v &&& 0x00FF)) ∧
    storeExtended (.mem a) v s = memWrite .byte a v s

/-- An operand takes as many words of the instruction stream as spec/30_encoding.md R102 says: from an even PC,
resolving it leaves PC past them. The modes that step PC down are set apart (spec/41_addressing_modes.md R204). -/
def Obligations.OperandWords : Prop :=
  ∀ (sz : Size) (o : Operand) (s t : State) (l : Loc), (s.reg .pc).getLsbD 0 = false →
    ¬ (o.reg = .pc ∧ (o.mode = .autoDec ∨ o.mode = .autoDecDeferred)) → resolve sz o s = .ok l t →
    t.reg .pc = s.reg .pc + BitVec.ofNat 16 (2 * extraWords o)

/-- An immediate is a word of the instruction stream: from an even PC, either size makes one 2-byte read at PC and steps
PC by 2, and a byte operand is the low byte of the word; the read that an instruction makes of a destination, at the
location its immediate resolves to, is that same read (spec/41_addressing_modes.md R183, R186, R200;
spec/20_memory.md R78; spec/30_encoding.md R101). That these decide the width against the 1-byte read of R181: DEDUCED,
log 28. -/
def Obligations.ImmediateOperands : Prop :=
  ∀ s : State, (s.reg .pc).getLsbD 0 = false →
    let t := s.setReg .pc (s.reg .pc + 2)
    readOperand .word ⟨.autoInc, .pc⟩ s = memRead .word (s.reg .pc) t ∧
    (∀ w u, memRead .word (s.reg .pc) t = .ok w u → readOperand .byte ⟨.autoInc, .pc⟩ s = .ok (w &&& 0x00FF) u) ∧
    (∀ e u, memRead .word (s.reg .pc) t = .error e u → readOperand .byte ⟨.autoInc, .pc⟩ s = .error e u) ∧
    (∀ sz l, resolve sz ⟨.autoInc, .pc⟩ s = .ok l t ↔ l = .mem (s.reg .pc)) ∧
    (∀ sz, readResolved sz ⟨.autoInc, .pc⟩ (.mem (s.reg .pc)) t = readOperand sz ⟨.autoInc, .pc⟩ s) ∧
    (s.PlainBus → ∃ u, readOperand .byte ⟨.autoInc, .pc⟩ s = .ok ((s.memByte (s.reg .pc)).zeroExtend 16) u ∧
      u.calls = .read (s.reg .pc) .word :: s.calls ∧ u.reg .pc = s.reg .pc + 2)

/-! ### Flags and results -/

/-- Addition: the sum modulo 2^w, C the carry out, V the signed overflow, N and Z from the result, nothing else
(spec/42_flag_engine.md R221, R226), and the source's two examples (R227). -/
def Obligations.AdditionAndFlags : Prop :=
  (∀ (sz : Size) (a b p : Word) (cin : Bool), let q := addFlags sz a b cin p
    let full := unsignedValue sz a + unsignedValue sz b + cin.toNat
    q.1.toNat = full % 2 ^ sz.width ∧ flagC q.2 = decide (2 ^ sz.width ≤ full) ∧
    (flagV q.2 = true ↔ overflows sz (signedValue sz a + signedValue sz b + cin.toNat)) ∧
    FollowsResult sz q.1 p q.2) ∧
  (∀ p : Word, (addFlags .word 0x7FFF 1 false p).1 = 0x8000 ∧
    flagN (addFlags .word 0x7FFF 1 false p).2 = true ∧ flagZ (addFlags .word 0x7FFF 1 false p).2 = false ∧
    flagV (addFlags .word 0x7FFF 1 false p).2 = true ∧ flagC (addFlags .word 0x7FFF 1 false p).2 = false ∧
    (addFlags .word 0xFFFF 1 false p).1 = 0x0000 ∧
    flagN (addFlags .word 0xFFFF 1 false p).2 = false ∧ flagZ (addFlags .word 0xFFFF 1 false p).2 = true ∧
    flagV (addFlags .word 0xFFFF 1 false p).2 = false ∧ flagC (addFlags .word 0xFFFF 1 false p).2 = true)

/-- Subtraction: the difference modulo 2^w, C the borrow, V the signed overflow, N and Z from the result, nothing else
(spec/42_flag_engine.md R222, R226). -/
def Obligations.SubtractionAndFlags : Prop :=
  ∀ (sz : Size) (a b p : Word) (bin : Bool), let q := subFlags sz a b bin p
    let full : Int := unsignedValue sz a - unsignedValue sz b - bin.toNat
    (q.1.toNat : Int) = full % 2 ^ sz.width ∧ flagC q.2 = decide (full < 0) ∧
    (flagV q.2 = true ↔ overflows sz (signedValue sz a - signedValue sz b - bin.toNat)) ∧
    FollowsResult sz q.1 p q.2

/-- The logic flags: N and Z from the result at the operand's size, V cleared, C and the upper bits kept; and the
results of BIC, BIS, XOR and BIT (spec/42_flag_engine.md R220, R223; spec/43_double_operand.md R254 to R259, R262). -/
def Obligations.LogicResults : Prop :=
  ∀ (sz : Size) (x d p : Word),
    (∀ r, FollowsResult sz r p (logicFlags sz r p) ∧ flagV (logicFlags sz r p) = false ∧
      flagC (logicFlags sz r p) = flagC p) ∧
    (∀ i, (bicResult sz x d p).1.getLsbD i = (decide (i < sz.width) && (!x.getLsbD i && d.getLsbD i))) ∧
    (∀ i, (bisResult sz x d p).1.getLsbD i = (decide (i < sz.width) && (x.getLsbD i || d.getLsbD i))) ∧
    (∀ i, (xorResult x d p).1.getLsbD i = (x.getLsbD i ^^ d.getLsbD i)) ∧
    (bicResult sz x d p).2 = logicFlags sz (bicResult sz x d p).1 p ∧
    (bisResult sz x d p).2 = logicFlags sz (bisResult sz x d p).1 p ∧
    (xorResult x d p).2 = logicFlags .word (xorResult x d p).1 p ∧
    bitFlags sz x d p = logicFlags sz (x &&& d) p

/-- Shifts and rotates: each result, C the bit shifted out, V = N xor C (spec/42_flag_engine.md R224;
spec/44_single_operand.md R316 to R323). -/
def Obligations.ShiftResults : Prop :=
  ∀ (sz : Size) (x p : Word), let v := unsignedValue sz x
    let c := (flagC p).toNat
    let top := 2 ^ (sz.width - 1)
    let follows : Word × Word → Prop := fun q => FollowsResult sz q.1 p q.2 ∧ flagV q.2 = (flagN q.2 ^^ flagC q.2)
    ((rorResult sz x p).1.toNat = v / 2 + c * top ∧ flagC (rorResult sz x p).2 = decide (v % 2 = 1) ∧
      follows (rorResult sz x p)) ∧
    ((rolResult sz x p).1.toNat = (2 * v + c) % 2 ^ sz.width ∧ flagC (rolResult sz x p).2 = decide (top ≤ v) ∧
      follows (rolResult sz x p)) ∧
    ((asrResult sz x p).1.toNat = v / 2 + (if top ≤ v then top else 0) ∧
      flagC (asrResult sz x p).2 = decide (v % 2 = 1) ∧ follows (asrResult sz x p)) ∧
    ((aslResult sz x p).1.toNat = 2 * v % 2 ^ sz.width ∧ flagC (aslResult sz x p).2 = decide (top ≤ v) ∧
      follows (aslResult sz x p))

/-- COM, INC, DEC, NEG, ADC, SBC and TST: result, V and C, N and Z from the result, nothing else
(spec/44_single_operand.md R302 to R315). -/
def Obligations.UnaryResults : Prop :=
  ∀ (sz : Size) (x p : Word), let v := unsignedValue sz x
    let c := (flagC p).toNat
    let size := 2 ^ sz.width
    let top := 2 ^ (sz.width - 1)
    let gives : Word × Word → Nat → Bool → Bool → Prop := fun q r fv fc =>
      q.1.toNat = r ∧ flagV q.2 = fv ∧ flagC q.2 = fc ∧ FollowsResult sz q.1 p q.2
    gives (comResult sz x p) (size - 1 - v) false true ∧
    gives (incResult sz x p) ((v + 1) % size) (decide (v = top - 1)) (flagC p) ∧
    gives (decResult sz x p) ((v + size - 1) % size) (decide (v = top)) (flagC p) ∧
    gives (negResult sz x p) ((size - v) % size) (decide (v = top)) (decide (v ≠ 0)) ∧
    gives (adcResult sz x p) ((v + c) % size) (decide (v = top - 1 ∧ c = 1)) (decide (v = size - 1 ∧ c = 1)) ∧
    gives (sbcResult sz x p) ((v + size - c) % size) (decide (v = top ∧ c = 1)) (decide (v = 0 ∧ c = 1)) ∧
    FollowsResult sz x p (tstFlags sz x p) ∧ flagV (tstFlags sz x p) = false ∧ flagC (tstFlags sz x p) = false

/-- After a compare, the signed branch tests order the signed values and the unsigned tests the unsigned values of the
operands, at either size (spec/42_flag_engine.md R229, R222). -/
def Obligations.CompareThenBranch : Prop :=
  ∀ (sz : Size) (a b p : Word), let q := cmpFlags sz a b p
    let ua := unsignedValue sz a
    let ub := unsignedValue sz b
    let sa := signedValue sz a
    let sb := signedValue sz b
    condEq q = decide (ua = ub) ∧ condNe q = decide (ua ≠ ub) ∧
    condGe q = decide (sb ≤ sa) ∧ condLt q = decide (sa < sb) ∧
    condGt q = decide (sb < sa) ∧ condLe q = decide (sa ≤ sb) ∧
    condCc q = decide (ub ≤ ua) ∧ condCs q = decide (ua < ub) ∧
    condHi q = decide (ub < ua) ∧ condLos q = decide (ua ≤ ub)

/-- SWAB takes N and Z from the new low byte; SXT spreads N and sets Z from it; CLR sets Z alone; MTPS loads PRI and
the condition codes and keeps T, H and every other bit (spec/44_single_operand.md R300, R330, R331, R340). -/
def Obligations.StatusAndSwapResults : Prop :=
  ∀ x p : Word,
    ((swabResult x p).1.toNat = x.toNat % 256 * 256 + x.toNat / 256 ∧
      FollowsResult .byte (swabResult x p).1 p (swabResult x p).2 ∧ flagV (swabResult x p).2 = false ∧
      flagC (swabResult x p).2 = false) ∧
    ((sxtResult p).1 = (if flagN p then 0xFFFF else 0x0000) ∧ flagZ (sxtResult p).2 = !flagN p ∧
      flagV (sxtResult p).2 = false ∧ ∀ i, i ≠ 1 → i ≠ 2 → (sxtResult p).2.getLsbD i = p.getLsbD i) ∧
    ((clrResult p).1 = 0 ∧ FollowsResult .word 0 p (clrResult p).2 ∧ flagV (clrResult p).2 = false ∧
      flagC (clrResult p).2 = false) ∧
    (priority (mtpsPsw x p) = priority x ∧ (∀ i, i < 4 → (mtpsPsw x p).getLsbD i = x.getLsbD i) ∧
      ∀ i, i = 4 ∨ 8 ≤ i → (mtpsPsw x p).getLsbD i = p.getLsbD i)

/-! ### Every instruction completes, and what it leaves

On a bus that answers, for every operand form; `Started` is not asked. -/

/-- ADD, SUB, BIC, BICB, BIS and BISB complete: source read, destination read and written once, then the flags; SUB is
destination minus source (spec/43_double_operand.md R256 to R261; spec/41_addressing_modes.md R198). -/
def Obligations.TwoOperandResults : Prop :=
  ∀ (src dst : Operand) (s : State), s.BusServes →
    Combines .word src dst (fun x d p => addFlags .word x d false p) s (exec (.add src dst) s) ∧
    Combines .word src dst (fun x d p => subFlags .word d x false p) s (exec (.sub src dst) s) ∧
    Combines .word src dst (bicResult .word) s (exec (.bic src dst) s) ∧
    Combines .byte src dst (bicResult .byte) s (exec (.bicb src dst) s) ∧
    Combines .word src dst (bisResult .word) s (exec (.bis src dst) s) ∧
    Combines .byte src dst (bisResult .byte) s (exec (.bisb src dst) s)

/-- MOV, MOVB, XOR and MFPS complete: MOV, MOVB and MFPS never read their destination, MOVB and MFPS extend the sign
into a register, XOR reads its register before the destination is resolved (spec/43_double_operand.md R250, R251,
R262; spec/44_single_operand.md R342; spec/20_memory.md R77). -/
def Obligations.MoveResults : Prop :=
  ∀ (src dst : Operand) (r : Reg) (s : State), s.BusServes →
    (∃ v t, readOperand .word src s = .ok v t ∧
      Overwrites .word dst (fun p => (v, logicFlags .word v p)) t (exec (.mov src dst) s)) ∧
    (∃ v t, readOperand .byte src s = .ok v t ∧ StoresByte dst v t (exec (.movb src dst) s)) ∧
    Modifies .word dst (xorResult (s.reg r)) s (exec (.xor r dst) s) ∧
    StoresByte dst (s.psw &&& 0x00FF) s (exec (.mfps dst) s)

/-- CMP, CMPB, BIT, BITB, TST, TSTB and MTPS complete: they read their operands, source first, and write the PSW alone;
CMP is source minus destination (spec/43_double_operand.md R252 to R255; spec/44_single_operand.md R314, R315,
R340). -/
def Obligations.ReadOnlyResults : Prop :=
  ∀ (src dst : Operand) (s : State), s.BusServes →
    Compares .word src dst (fun x d p => (subFlags .word x d false p).2) s (exec (.cmp src dst) s) ∧
    Compares .byte src dst (fun x d p => (subFlags .byte x d false p).2) s (exec (.cmpb src dst) s) ∧
    Compares .word src dst (fun x d p => logicFlags .word (x &&& d) p) s (exec (.bit src dst) s) ∧
    Compares .byte src dst (fun x d p => logicFlags .byte (x &&& d) p) s (exec (.bitb src dst) s) ∧
    Inspects .word dst (tstFlags .word) s (exec (.tst dst) s) ∧
    Inspects .byte dst (tstFlags .byte) s (exec (.tstb dst) s) ∧
    Inspects .byte src mtpsPsw s (exec (.mtps src) s)

/-- The read-modify-write instructions complete: COM, INC, DEC, NEG, ADC, SBC, ROR, ROL, ASR, ASL, their byte forms,
and SWAB resolve, read and write the destination once; CLR, CLRB and SXT write it without a read
(spec/44_single_operand.md R300 to R331, R361). -/
def Obligations.SingleOperandResults : Prop :=
  ∀ (dst : Operand) (s : State), s.BusServes →
    (Modifies .word dst (comResult .word) s (exec (.com dst) s) ∧
      Modifies .byte dst (comResult .byte) s (exec (.comb dst) s) ∧
      Modifies .word dst (incResult .word) s (exec (.inc dst) s) ∧
      Modifies .byte dst (incResult .byte) s (exec (.incb dst) s) ∧
      Modifies .word dst (decResult .word) s (exec (.dec dst) s) ∧
      Modifies .byte dst (decResult .byte) s (exec (.decb dst) s) ∧
      Modifies .word dst (negResult .word) s (exec (.neg dst) s) ∧
      Modifies .byte dst (negResult .byte) s (exec (.negb dst) s) ∧
      Modifies .word dst (adcResult .word) s (exec (.adc dst) s) ∧
      Modifies .byte dst (adcResult .byte) s (exec (.adcb dst) s) ∧
      Modifies .word dst (sbcResult .word) s (exec (.sbc dst) s) ∧
      Modifies .byte dst (sbcResult .byte) s (exec (.sbcb dst) s)) ∧
    (Modifies .word dst (rorResult .word) s (exec (.ror dst) s) ∧
      Modifies .byte dst (rorResult .byte) s (exec (.rorb dst) s) ∧
      Modifies .word dst (rolResult .word) s (exec (.rol dst) s) ∧
      Modifies .byte dst (rolResult .byte) s (exec (.rolb dst) s) ∧
      Modifies .word dst (asrResult .word) s (exec (.asr dst) s) ∧
      Modifies .byte dst (asrResult .byte) s (exec (.asrb dst) s) ∧
      Modifies .word dst (aslResult .word) s (exec (.asl dst) s) ∧
      Modifies .byte dst (aslResult .byte) s (exec (.aslb dst) s) ∧
      Modifies .word dst swabResult s (exec (.swab dst) s)) ∧
    (Overwrites .word dst clrResult s (exec (.clr dst) s) ∧
      Overwrites .byte dst clrResult s (exec (.clrb dst) s) ∧
      Overwrites .word dst sxtResult s (exec (.sxt dst) s))

/-- The fifteen branches complete: PC moves by twice the signed offset exactly where the test on N, Z, V and C holds,
and nothing else changes but the trace latch (spec/45_control_transfer.md R371, R390 to R404). -/
def Obligations.BranchResults : Prop :=
  ∀ (off : BitVec 8) (s : State), let n := flagN s.psw
    let z := flagZ s.psw
    let v := flagV s.psw
    let c := flagC s.psw
    exec (.br off) s = branched true off s ∧
    exec (.bne off) s = branched (!z) off s ∧ exec (.beq off) s = branched z off s ∧
    exec (.bge off) s = branched (!(n ^^ v)) off s ∧ exec (.blt off) s = branched (n ^^ v) off s ∧
    exec (.bgt off) s = branched (!(z || (n ^^ v))) off s ∧ exec (.ble off) s = branched (z || (n ^^ v)) off s ∧
    exec (.bpl off) s = branched (!n) off s ∧ exec (.bmi off) s = branched n off s ∧
    exec (.bhi off) s = branched (!c && !z) off s ∧ exec (.blos off) s = branched (c || z) off s ∧
    exec (.bvc off) s = branched (!v) off s ∧ exec (.bvs off) s = branched v off s ∧
    exec (.bcc off) s = branched (!c) off s ∧ exec (.bcs off) s = branched c off s

/-- SOB, JMP, JSR, RTS and MARK complete (spec/45_control_transfer.md R380 to R385). SOB decrements and branches back
unless the result is 0; JMP goes to the effective address; JSR pushes the link register's value from before the push,
then links; RTS and MARK pop the link. JMP and JSR are meant for a memory destination here. -/
def Obligations.TransferResults : Prop :=
  (∀ (r : Reg) (nn : BitVec 6) (s : State), let t := s.setReg r (s.reg r - 1)
    exec (.sob r nn) s = .next (State.complete
      (if t.reg r = 0 then t else t.setReg .pc (t.reg .pc - 2 * nn.zeroExtend 16)) .ordinary)) ∧
  (∀ (dst : Operand) (s : State), s.BusServes → dst.mode ≠ .register →
    ∃ a t, resolve .word dst s = .ok (.mem a) t ∧
      exec (.jmp dst) s = .next ((t.setReg .pc a).complete .ordinary) ∧
      ∀ r, ∃ u, memWrite .word (t.reg .sp - 2) (t.reg r) (t.setReg .sp (t.reg .sp - 2)) = .ok () u ∧
        exec (.jsr r dst) s = .next (((u.setReg r (u.reg .pc)).setReg .pc a).complete .ordinary)) ∧
  (∀ (r : Reg) (s : State), s.BusServes →
    ∃ v t, memRead .word (s.reg .sp) (s.setReg .pc (s.reg r)) = .ok v t ∧
      exec (.rts r) s = .next (((t.setReg .sp (t.reg .sp + 2)).setReg r v).complete .ordinary)) ∧
  (∀ (nn : BitVec 6) (s : State), s.BusServes → let sp := s.reg .pc + 2 * nn.zeroExtend 16
    ∃ v t, memRead .word sp ((s.setReg .sp sp).setReg .pc (s.reg .r5)) = .ok v t ∧
      exec (.mark nn) s = .next (((t.setReg .sp (t.reg .sp + 2)).setReg .r5 v).complete .ordinary))

/-- WAIT sets WAIT_STATE; RESET makes one `bus_reset` call and changes nothing else; each of the 32 condition-code
operators sets or clears exactly the flags of its mask (spec/46_system_instructions.md R421, R425, R440). -/
def Obligations.SystemResults : Prop :=
  ∀ s : State, exec .wait s = .next (State.complete { s with waitState := true } .ordinary) ∧
    exec .reset s = .next (State.complete { s with calls := .busReset :: s.calls } .ordinary) ∧
    ∀ f ∈ ccForms, ∃ q, exec f.1 s = .next ((s.setPsw q).complete .ordinary) ∧
      (∀ i, i < 4 → q.getLsbD i = if f.2.2.getLsbD i then f.2.1 else s.psw.getLsbD i) ∧
      (pswFits s.params.variant s.psw = true → ∀ i, 4 ≤ i → q.getLsbD i = s.psw.getLsbD i)

/-- BPT, IOT, EMT, TRAP and the HALT of BASE complete by taking their trap, for every code
(spec/46_system_instructions.md R420, R423, R424, R427, R428); the HALT of EXTENDED enters the halt path, with H set
(spec/60_exceptions.md R530). -/
def Obligations.TrapInstructionsEnter : Prop :=
  ∀ s : State, s.BusServes →
    (∃ t, TrapEnters 0x000C s t ∧ exec .bpt s = .next (t.complete .ordinary)) ∧
    (∃ t, TrapEnters 0x0010 s t ∧ exec .iot s = .next (t.complete .ordinary)) ∧
    (∃ t, TrapEnters 0x0018 s t ∧ ∀ code, exec (.emt code) s = .next (t.complete .ordinary)) ∧
    (∃ t, TrapEnters 0x001C s t ∧ ∀ code, exec (.trap code) s = .next (t.complete .ordinary)) ∧
    (s.extended = false → ∃ t, TrapEnters 0x0004 s t ∧ exec .halt s = .next (t.complete .ordinary)) ∧
    (s.extended = true → s.params.haltVector &&& 3 = 0 →
      ∃ t, HaltEnters s t ∧ flagH t.psw = true ∧ exec .halt s = .next (t.complete .ordinary))

/-- Every RESERVED row completes by taking the reserved-instruction trap through 0x0008, and so do JMP and JSR with a
register destination (spec/46_system_instructions.md R450; spec/30_encoding.md R116; that these two do nothing after the
trap: DEDUCED, log 18). -/
def Obligations.ReservedInstructionsTrap : Prop :=
  ∀ s : State, s.BusServes → ∃ t, TrapEnters 0x0008 s t ∧
    exec .reserved0007 s = .next (t.complete .ordinary) ∧
    (∀ w, exec (.reserved0008 w) s = .next (t.complete .ordinary) ∧
      exec (.reserved0010 w) s = .next (t.complete .ordinary) ∧
      exec (.reserved0020 w) s = .next (t.complete .ordinary) ∧
      exec (.reserved0088 w) s = .next (t.complete .ordinary) ∧
      exec (.reserved0090 w) s = .next (t.complete .ordinary) ∧
      exec (.reserved0D40 w) s = .next (t.complete .ordinary) ∧
      exec (.reserved0D80 w) s = .next (t.complete .ordinary) ∧
      exec (.reserved0E00 w) s = .next (t.complete .ordinary) ∧
      exec (.reserved7000 w) s = .next (t.complete .ordinary) ∧
      exec (.reserved7A00 w) s = .next (t.complete .ordinary) ∧
      exec (.reserved7C00 w) s = .next (t.complete .ordinary) ∧
      exec (.reserved8D40 w) s = .next (t.complete .ordinary) ∧
      exec (.reserved8D80 w) s = .next (t.complete .ordinary) ∧
      exec (.reserved8E00 w) s = .next (t.complete .ordinary) ∧
      exec (.reservedF000 w) s = .next (t.complete .ordinary)) ∧
    (∀ q, exec (.jmp ⟨.register, q⟩) s = .next (t.complete .ordinary) ∧
      ∀ r, exec (.jsr r ⟨.register, q⟩) s = .next (t.complete .ordinary))

/-- RTI and RTT complete: PC and then PSW are popped, the PSW keeps its implemented bits alone, the bank follows the
mode bit (spec/46_system_instructions.md R422, R426). -/
def Obligations.TrapReturnResults : Prop :=
  ∀ s : State, s.BusServes → Returns .rti s (exec .rti s) ∧ Returns .rtt s (exec .rtt s)

/-- Completion sets the trace latch after an instruction that started with T = 1 and after an RTI that loaded T = 1,
never for RTT, and changes nothing else; an aborted instruction makes no trace-latch update
(spec/40_dispatch_loop.md R157, R158). -/
def Obligations.CompletionSetsTrace : Prop :=
  ∀ s : State,
    s.complete .ordinary = { s with tracePending := s.tracePending || flagT s.start.psw } ∧
    s.complete .rti = { s with tracePending := s.tracePending || (flagT s.start.psw || flagT s.psw) } ∧
    s.complete .rtt = s ∧ s.abort.tracePending = s.tracePending

/-! ### Exceptions -/

/-- A BASE trap, written out where plain memory answers: the vector's pair is read, the PSW is pushed at SP - 2 and PC
at SP - 4, the pair is installed, the wait state is cleared (spec/60_exceptions.md R475). -/
def Obligations.BaseTrapEntry : Prop :=
  ∀ (s : State) (vec : Word), s.PlainBus → s.extended = false → vec &&& 3 = 0 →
    trap vec s = .ok () (s.baseEntry vec)

/-- An EXTENDED trap, written out where plain memory answers: H is cleared and the non-privileged bank mapped before
the vector reads and the pushes, so the pushed PSW has H = 0; a new PSW with H = 1 maps the privileged bank
(spec/60_exceptions.md R476). -/
def Obligations.ExtendedTrapEntry : Prop :=
  ∀ (s : State) (vec : Word), s.PlainBus → s.extended = true → vec &&& 3 = 0 →
    let u : State := { s with psw := withH false s.psw, bank := .nonpriv }
    let a := alignWord (s.reg .sp - 2)
    let b := alignWord (s.reg .sp - 4)
    ∃ t, trap vec s = .ok () t ∧ t.regs = (s.regs.set .sp (s.reg .sp - 4)).set .pc (u.memValue .word vec) ∧
      t.psw = u.memValue .word (vec + 2) &&& 0x01FF ∧
      t.mem = ((u.storeMem .word a u.psw).storeMem .word b (s.reg .pc)).mem ∧
      t.bank = (if flagH t.psw then .priv else .nonpriv) ∧ t.waitState = false ∧
      t.calls = (if flagH t.psw then [.bankSwitch .priv] else []) ++
        [.write b .word (s.reg .pc), .write a .word u.psw, .read (vec + 2) .word, .read vec .word,
          .bankSwitch .nonpriv] ++ s.calls

/-- The halt path, written out where plain memory answers: the privileged bank is mapped first, the pair at
HALT_VECTOR is read, the PSW from before is pushed and then PC, and H stays 1 (spec/60_exceptions.md R530). -/
def Obligations.HaltPathEntry : Prop :=
  ∀ s : State, s.PlainBus → s.extended = true → s.params.haltVector &&& 3 = 0 →
    let vec := s.params.haltVector
    let u : State := { s with psw := withH true s.psw, bank := .priv }
    let a := alignWord (s.reg .sp - 2)
    let b := alignWord (s.reg .sp - 4)
    ∃ t, haltPath s = .ok () t ∧ t.regs = (s.regs.set .sp (s.reg .sp - 4)).set .pc (u.memValue .word vec) ∧
      t.psw = (u.memValue .word (vec + 2) &&& 0x01FF) ||| 0x0100 ∧
      t.mem = ((u.storeMem .word a s.psw).storeMem .word b (s.reg .pc)).mem ∧ t.bank = .priv ∧
      t.waitState = false ∧
      t.calls = [.write b .word (s.reg .pc), .write a .word s.psw, .read (vec + 2) .word, .read vec .word,
        .bankSwitch .priv] ++ s.calls

/-- A trap and the return from it restore the registers and the PSW: where plain memory answers, the mapper maps no
two addresses to one, and H is 0 before and in the handler (spec/60_exceptions.md R545). -/
def Obligations.TrapReturnRoundTrip : Prop :=
  ∀ (s : State) (vec : Word), s.PlainBus → s.Inv → vec &&& 3 = 0 → flagH s.psw = false →
    (∀ a b, s.phys a = s.phys b → a = b) →
    (s.extended = true → flagH (s.memValue .word (vec + 2)) = false) →
    ∃ t u, trap vec s = .ok () t ∧ trapReturn t = .ok () u ∧ u.regs = s.regs ∧ u.psw = s.psw ∧ u.bank = s.bank

/-! ### Frames -/

/-- What the word instructions that write a destination leave unchanged: every register but PC, the stepped ones and
the destination, every PSW bit but the flags of their rule, every byte of memory but the word stored to, and all the
rest of the state (spec/43_double_operand.md, spec/44_single_operand.md; spec/42_flag_engine.md R225). -/
def Obligations.WordWriteFrame : Prop :=
  ∀ (src dst : Operand) (s t : State), s.Started →
    (exec (.mov src dst) s = .next t ∨ exec (.bic src dst) s = .next t ∨ exec (.bis src dst) s = .next t →
      Frame (writesTwo src dst) flagsNZV (storedAt .word (destAddrAfter .word src dst s) s) s t) ∧
    (exec (.add src dst) s = .next t ∨ exec (.sub src dst) s = .next t →
      Frame (writesTwo src dst) flagsNZVC (storedAt .word (destAddrAfter .word src dst s) s) s t) ∧
    ((∃ r, exec (.xor r dst) s = .next t) ∨ exec (.inc dst) s = .next t ∨ exec (.dec dst) s = .next t →
      Frame (writesOne dst) flagsNZV (storedAt .word (destAddr .word dst s) s) s t) ∧
    (exec (.clr dst) s = .next t ∨ exec (.com dst) s = .next t ∨ exec (.neg dst) s = .next t ∨
      exec (.adc dst) s = .next t ∨ exec (.sbc dst) s = .next t ∨ exec (.ror dst) s = .next t ∨
      exec (.rol dst) s = .next t ∨ exec (.asr dst) s = .next t ∨ exec (.asl dst) s = .next t ∨
      exec (.swab dst) s = .next t →
      Frame (writesOne dst) flagsNZVC (storedAt .word (destAddr .word dst s) s) s t) ∧
    (exec (.sxt dst) s = .next t →
      Frame (writesOne dst) (fun i => i = 1 ∨ i = 2) (storedAt .word (destAddr .word dst s) s) s t)

/-- The same of the byte instructions; where they name a register, its bits 15:8 are kept by all but MOVB and MFPS
(spec/43_double_operand.md, spec/44_single_operand.md; spec/10_state.md R31). -/
def Obligations.ByteWriteFrame : Prop :=
  ∀ (src dst : Operand) (s t : State), s.Started →
    (exec (.movb src dst) s = .next t ∨ exec (.bicb src dst) s = .next t ∨ exec (.bisb src dst) s = .next t →
      Frame (writesTwo src dst) flagsNZV (storedAt .byte (destAddrAfter .byte src dst s) s) s t) ∧
    (exec (.mfps dst) s = .next t ∨ exec (.incb dst) s = .next t ∨ exec (.decb dst) s = .next t →
      Frame (writesOne dst) flagsNZV (storedAt .byte (destAddr .byte dst s) s) s t) ∧
    (exec (.clrb dst) s = .next t ∨ exec (.comb dst) s = .next t ∨ exec (.negb dst) s = .next t ∨
      exec (.adcb dst) s = .next t ∨ exec (.sbcb dst) s = .next t ∨ exec (.rorb dst) s = .next t ∨
      exec (.rolb dst) s = .next t ∨ exec (.asrb dst) s = .next t ∨ exec (.aslb dst) s = .next t →
      Frame (writesOne dst) flagsNZVC (storedAt .byte (destAddr .byte dst s) s) s t) ∧
    (∀ r, r ≠ .pc → dst = ⟨.register, r⟩ → exec (.clrb dst) s = .next t ∨ exec (.comb dst) s = .next t ∨
      exec (.incb dst) s = .next t ∨ exec (.decb dst) s = .next t ∨ exec (.negb dst) s = .next t ∨
      exec (.adcb dst) s = .next t ∨ exec (.sbcb dst) s = .next t ∨ exec (.rorb dst) s = .next t ∨
      exec (.rolb dst) s = .next t ∨ exec (.asrb dst) s = .next t ∨ exec (.aslb dst) s = .next t →
      highByte (t.reg r) = highByte (s.reg r)) ∧
    (∀ r, r ≠ .pc → ¬ stepsReg src r → dst = ⟨.register, r⟩ →
      exec (.bicb src dst) s = .next t ∨ exec (.bisb src dst) s = .next t → highByte (t.reg r) = highByte (s.reg r))

/-- What the instructions that write no destination leave unchanged: every register but PC and the stepped ones, all of
memory, and every PSW bit but the flags of their rule; MTPS keeps T and every bit above 7
(spec/43_double_operand.md R252 to R255; spec/44_single_operand.md R314, R315, R340). -/
def Obligations.ReadOnlyFrame : Prop :=
  ∀ (src dst : Operand) (s t : State), s.Started →
    let two : Reg → Prop := fun r => r = .pc ∨ stepsReg src r ∨ stepsReg dst r
    let one : Reg → Prop := fun r => r = .pc ∨ stepsReg dst r
    (exec (.cmp src dst) s = .next t ∨ exec (.cmpb src dst) s = .next t →
      Frame two flagsNZVC (fun _ => False) s t) ∧
    (exec (.bit src dst) s = .next t ∨ exec (.bitb src dst) s = .next t →
      Frame two flagsNZV (fun _ => False) s t) ∧
    (exec (.tst dst) s = .next t ∨ exec (.tstb dst) s = .next t → Frame one flagsNZVC (fun _ => False) s t) ∧
    (exec (.mtps dst) s = .next t → Frame one (fun i => i ≠ 4 ∧ i < 8) (fun _ => False) s t)

/-- What control transfers leave unchanged. None writes a flag. JMP and JSR of a memory destination write PC, the
stepped register, and for JSR also SP, the link register and the word pushed; RTS writes PC, SP and its register,
MARK writes PC, SP and R5, SOB its register and PC, and these three store nothing
(spec/45_control_transfer.md R370, R380 to R385). -/
def Obligations.TransferFrame : Prop :=
  ∀ (dst : Operand) (r : Reg) (s t : State), s.Started →
    (dst.mode ≠ .register → exec (.jmp dst) s = .next t →
      Frame (fun q => q = .pc ∨ stepsReg dst q) (fun _ => False) (fun _ => False) s t) ∧
    (dst.mode ≠ .register → exec (.jsr r dst) s = .next t →
      Frame (fun q => q = .pc ∨ q = .sp ∨ q = r ∨ stepsReg dst q) (fun _ => False)
        (storedAt .word (linkSlot dst s) s) s t) ∧
    (exec (.rts r) s = .next t →
      Frame (fun q => q = .pc ∨ q = .sp ∨ q = r) (fun _ => False) (fun _ => False) s t) ∧
    ((∃ nn, exec (.mark nn) s = .next t) →
      Frame (fun q => q = .pc ∨ q = .sp ∨ q = .r5) (fun _ => False) (fun _ => False) s t) ∧
    ((∃ nn, exec (.sob r nn) s = .next t) →
      Frame (fun q => q = .pc ∨ q = r) (fun _ => False) (fun _ => False) s t)

/-- What an instruction that takes a trap, and one that returns from one, leave unchanged: every register but SP and
PC, and of memory, for a trap, all but the two words below SP, for a return, everything
(spec/46_system_instructions.md R420 to R428, R450; spec/60_exceptions.md R475, R476, R530). That JSR with a register
destination pushes no link and writes no link register: DEDUCED, log 18. -/
def Obligations.ExceptionFrame : Prop :=
  ∀ s t : State, s.Started →
    (exec .bpt s = .next t ∨ exec .iot s = .next t ∨ (∃ c, exec (.emt c) s = .next t) ∨
      (∃ c, exec (.trap c) s = .next t) ∨ (s.extended = false ∧ exec .halt s = .next t) ∨
      (∃ i : Instr, i.row.mnemonic = "RESERVED" ∧ exec i s = .next t) ∨
      (∃ q, exec (.jmp ⟨.register, q⟩) s = .next t) ∨ (∃ r q, exec (.jsr r ⟨.register, q⟩) s = .next t) →
      TrapFrame s.leavePrivileged s t) ∧
    (s.extended = true → exec .halt s = .next t → TrapFrame { s with bank := .priv } s t) ∧
    (exec .rti s = .next t ∨ exec .rtt s = .next t → ReturnFrame s t)

/-! ### Rules about every instruction, and the boundary -/

/-- Every instruction either records no failure or is aborted: registers and PSW are those of its start, PC by
FAULT_PC_POLICY, no trace latch, the bank restored, one failure recorded. The memory writes completed before the failure
stay: an instruction that takes a trap or the halt path was stopped in that sequence, and memory is as the sequence left
it; every other instruction writes last, so it completed no write (spec/40_dispatch_loop.md R158;
spec/60_exceptions.md R473, R500). That JMP and JSR of a register do nothing after their trap: DEDUCED, log 18. -/
def Obligations.AbortIsAtomic : Prop :=
  ∀ (i : Instr) (s t : State), s.Inv → s.Started → exec i s = .next t →
    (t.busFaultPending = s.busFaultPending ∧ t.busFaultCount = s.busFaultCount) ∨
    (t.busFaultPending = true ∧ t.busFaultCount = s.busFaultCount + 1 ∧
      t.regs = s.start.regs.set .pc (match s.params.faultPc with
        | .instrStart => s.start.regs.pc
        | .afterFetch => (s.start.regs.pc &&& 0xFFFE) + 2) ∧
      t.psw = s.start.psw ∧ t.tracePending = s.tracePending ∧ t.waitState = s.waitState ∧ t.bank = s.bank ∧
      match sequenceOf i s with
      | none => t.mem = s.mem
      | some sequence => ∃ u, sequence s = .error .busFailure u ∧ t.mem = u.mem)

/-- In a state that meets the invariant, no instruction but MTPS, the trap returns and those that take a trap changes
PRI, T, H or any PSW bit above the condition codes (spec/10_state.md R37, R39). -/
def Obligations.PriorityKept : Prop :=
  ∀ (i : Instr) (s t : State), s.Inv → installsPsw i = false → s.Started → exec i s = .next t →
    ∀ k, 4 ≤ k → t.psw.getLsbD k = s.psw.getLsbD k

/-- PPC and PPSW are the PC and PSW at the start of the last instruction, frozen while H is set in EXTENDED; a step that
takes a trap or holds does not change them (spec/10_state.md R42; spec/40_dispatch_loop.md R153). -/
def Obligations.ShadowsFollow : Prop :=
  ∀ s t : State, coreStep s = (.executed, .next t) ∨ coreStep s = (.trapTaken, .next t) ∨
      coreStep s = (.idle, .next t) →
    ((coreStep s).1 = .executed ∧ ¬ (s.extended = true ∧ flagH s.psw = true) →
      t.ppc = s.reg .pc ∧ t.ppsw = s.psw) ∧
    ((coreStep s).1 ≠ .executed ∨ (s.extended = true ∧ flagH s.psw = true) → t.ppc = s.ppc ∧ t.ppsw = s.ppsw)

/-- A pending bus failure is the first thing the arbiter takes, in either variant, whatever PRI and H: the trap through
0x0004, with the pending flag cleared and the count kept (spec/60_exceptions.md R502, R474). -/
def Obligations.BusFaultTrapFirst : Prop :=
  ∀ s : State, s.busFaultPending = true → s.BusServes →
    ∃ t, TrapEnters 0x0004 { s with busFaultPending := false } t ∧ arbitrate s = .taken t ∧
      t.busFaultPending = false ∧ t.busFaultCount = s.busFaultCount

/-- The double fault: a failure anywhere in the bus-fault trap's own sequence, and nothing else, makes the core stuck,
with registers and PSW as before the sequence and the failure counted. Every access of the sequence is one: the two
vector reads, the two pushes, and an odd SP under ODD_WORD_POLICY = FAULT (spec/60_exceptions.md R504). -/
def Obligations.DoubleFaultOnlyThere : Prop :=
  (∀ s t : State, s.doubleFault = false → (coreStep s).2 = .next t → t.doubleFault = true →
    s.busFaultPending = true ∧ t.regs = s.regs ∧ t.psw = s.psw ∧ t.busFaultCount = s.busFaultCount + 1) ∧
  (∀ s u : State, s.busFaultPending = true →
    trap 0x0004 { s with busFaultPending := false } = .error .busFailure u →
    ∃ t, arbitrate s = .taken t ∧ t.doubleFault = true ∧ t.regs = s.regs ∧ t.psw = s.psw ∧ t.mem = u.mem ∧
      t.busFaultCount = s.busFaultCount + 1) ∧
  (∀ s : State, s.busFaultPending = true →
    .fail ∈ s.answers.take 4 ∨ (s.params.oddWord = .fault ∧ (s.reg .sp).getLsbD 0 = true) →
    ∃ t, arbitrate s = .taken t ∧ t.doubleFault = true)

/-- A trap sequence at a boundary that a bus failure aborts consumes no request: registers, PSW, wait state, trace
latch, event latch, power-fail request and bank are as before it, and the failure is pending
(spec/60_exceptions.md R503; that the step is a trap step: DEDUCED, log 14). -/
def Obligations.AbortedSequenceKeepsRequest : Prop :=
  ∀ s t : State, s.Inv → s.busFaultPending = false → arbitrate s = .taken t → t.busFaultPending = true →
    t.regs = s.regs ∧ t.psw = s.psw ∧ t.waitState = s.waitState ∧ t.tracePending = s.tracePending ∧
    t.eventLatch = s.eventLatch ∧ t.powerFailReq = s.powerFailReq ∧ t.virq = s.virq ∧ t.bank = s.bank ∧
    t.busFaultCount = s.busFaultCount + 1 ∧ t.doubleFault = s.doubleFault

/-- The base arbiter once no bus failure is pending, on a bus that answers: trace first, then the table's request where
its priority exceeds PRI, through the substituted vector or the table's, acknowledged once; else nothing
(spec/60_exceptions.md R480 to R482, R511). -/
def Obligations.BaseArbiter : Prop :=
  ∀ s : State, s.params.variant = .base → s.busFaultPending = false → s.BusServes →
    (s.params.baseTrace = true → s.tracePending = true →
      ∃ t, TrapEnters 0x000C s t ∧ arbitrate s = .taken { t with tracePending := false }) ∧
    (¬ (s.params.baseTrace = true ∧ s.tracePending = true) →
      (∀ e, s.irqEntry = some e → priority s.psw < e.priority →
        let vec := s.nextIrqAnswer.vector.getD e.vector
        (vec &&& 3 = 0 → ∃ t, TrapEnters vec s.irqAck t ∧ arbitrate s = .taken t) ∧
        (vec &&& 3 ≠ 0 → arbitrate s = .fault (.vectorMisaligned vec))) ∧
      (∀ e, s.irqEntry = some e → ¬ priority s.psw < e.priority → arbitrate s = .idle s) ∧
      (s.irqEntry = none → arbitrate s = .idle s))

/-- The ladder of the extended arbiter once no bus failure is pending, on a bus that answers: trace, halt pin, the stop
at PRI 7, power fail, event, vectored device, in this order, each with its mask and with its request consumed
(spec/60_exceptions.md R520 to R527, R511, R530). -/
def Obligations.ExtendedLadder : Prop :=
  ∀ s : State, s.params.variant = .extended → s.busFaultPending = false → s.BusServes →
    if s.tracePending = true then
      ∃ t, TrapEnters 0x000C s t ∧ arbitrate s = .taken { t with tracePending := false }
    else if s.haltLine = true ∧ flagH s.psw = false then
      (s.params.haltVector &&& 3 = 0 → ∃ t, HaltEnters s t ∧ arbitrate s = .taken t) ∧
      (s.params.haltVector &&& 3 ≠ 0 → arbitrate s = .fault (.vectorMisaligned s.params.haltVector))
    else if priority s.psw = 7 then arbitrate s = .idle s
    else if s.powerFailReq = true ∧ flagH s.psw = false then
      ∃ t, TrapEnters 0x0014 s t ∧ arbitrate s = .taken { t with powerFailReq := false }
    else if s.eventLatch = true then
      ∃ t, TrapEnters 0x0040 s t ∧ arbitrate s = .taken { t with eventLatch := false }
    else if s.virq = false then arbitrate s = .idle s
    else match s.chainVector with
      | none => arbitrate s = .idle { s.ackChain with virq := false }
      | some v =>
        if v = 0 then arbitrate s = .idle { s.ackChain with virq := false }
        else if v &&& 3 = 0 then ∃ t, TrapEnters v s.ackChain t ∧ arbitrate s = .taken t
        else arbitrate s = .fault (.vectorMisaligned v)

/-- The daisy chain: the first pending peripheral that gives an answer ends the walk and stops being pending, the
pending ones before it are asked in order and decline, and those after it are not asked; where none gives one, there
is no vector (spec/60_exceptions.md R528). That a decliner stays pending, and one that answers 0, the sentinel of
R526, too: DEDUCED, log 8. -/
def Obligations.ChainWalk : Prop :=
  (∀ (s : State) (before after : List Peripheral) (p : Peripheral) (v : Word),
    s.chain = before ++ p :: after → (∀ q ∈ before, q.pending = false ∨ q.answer = none) → p.pending = true →
    p.answer = some v →
    s.chainVector = some v ∧ s.ackChain.chain = before ++ { p with pending := decide (v = 0) } :: after ∧
    ∃ asked : List Nat, s.ackChain.calls = asked.map EnvCall.chainAck ++ s.calls ∧ asked.Pairwise (· > ·) ∧
      ∀ k, k ∈ asked ↔ k ≤ before.length ∧ ∃ q, s.chain[k]? = some q ∧ q.pending = true) ∧
  (∀ s : State, (∀ q ∈ s.chain, q.pending = false ∨ q.answer = none) →
    s.chainVector = none ∧ s.ackChain.chain = s.chain)

/-- `run` is the loop of spec/40_dispatch_loop.md R160 over the core's steps. It stops exactly when the cycles used
reach the budget; a stuck or waiting core returns the whole budget; a trap adds TRAP_CYCLES and an executed instruction
its CYCLES, both positive, and the loop goes on; a misaligned vector stops it. So it is a sequence of steps that its
budget alone cuts (R161). The model's own in this: a failed opcode fetch, to which R160 gives no CYCLES, costs a positive
number as an executed instruction does (DESIGN CHOICE, log 12); a boundary sequence that a bus failure aborts is a trap
turn (DEDUCED, log 14) and costs TRAP_CYCLES (DESIGN CHOICE, log 12); the environment has its turn before each step
(form: DESIGN CHOICE, log 10). -/
def Obligations.RunIsASequenceOfSteps : Prop :=
  0 < trapCycles ∧ (∀ s, 0 < instructionCycles s) ∧
  (∀ (budget : Nat) (s : State), run budget s = runFrom budget 0 s) ∧
  (∀ (budget used : Nat) (s : State),
    (budget ≤ used → runFrom budget used s = .next (used, s)) ∧
    (used < budget →
      (∀ t, coreStep s.takeInputs = (.stuck, .next t) → runFrom budget used s = .next (budget, t)) ∧
      (∀ t, coreStep s.takeInputs = (.idle, .next t) → runFrom budget used s = .next (budget, t)) ∧
      (∀ t, coreStep s.takeInputs = (.trapTaken, .next t) →
        runFrom budget used s = runFrom budget (used + trapCycles) t) ∧
      (∀ t, coreStep s.takeInputs = (.executed, .next t) →
        runFrom budget used s = runFrom budget (used + instructionCycles s.takeInputs.arbitrated) t) ∧
      (∀ k f, coreStep s.takeInputs = (k, .fault f) → runFrom budget used s = .fault f))) ∧
  (∀ (budget used : Nat) (s t : State), run budget s = .next (used, t) →
    budget ≤ used ∧ ∃ n, s.after n = .next t)
end

