-- ==== Sys2Proof/Laws/State.lean ====
section
/-! SUPPORT. One lemma per field and update of the state, true by unfolding, so that no later proof unfolds a record
update. -/

namespace Sys2Proof.Machine

section
variable (s : State)

/-! ### setReg -/

@[simp] theorem setReg_params (r : Reg) (v : Word) : (s.setReg r v).params = s.params := rfl
@[simp] theorem setReg_regs (r : Reg) (v : Word) : (s.setReg r v).regs = s.regs.set r v := rfl
@[simp] theorem setReg_psw (r : Reg) (v : Word) : (s.setReg r v).psw = s.psw := rfl
@[simp] theorem setReg_ppc (r : Reg) (v : Word) : (s.setReg r v).ppc = s.ppc := rfl
@[simp] theorem setReg_ppsw (r : Reg) (v : Word) : (s.setReg r v).ppsw = s.ppsw := rfl
@[simp] theorem setReg_waitState (r : Reg) (v : Word) : (s.setReg r v).waitState = s.waitState := rfl
@[simp] theorem setReg_tracePending (r : Reg) (v : Word) : (s.setReg r v).tracePending = s.tracePending := rfl
@[simp] theorem setReg_busFaultPending (r : Reg) (v : Word) : (s.setReg r v).busFaultPending = s.busFaultPending := rfl
@[simp] theorem setReg_busFaultCount (r : Reg) (v : Word) : (s.setReg r v).busFaultCount = s.busFaultCount := rfl
@[simp] theorem setReg_doubleFault (r : Reg) (v : Word) : (s.setReg r v).doubleFault = s.doubleFault := rfl
@[simp] theorem setReg_eventLatch (r : Reg) (v : Word) : (s.setReg r v).eventLatch = s.eventLatch := rfl
@[simp] theorem setReg_powerFailReq (r : Reg) (v : Word) : (s.setReg r v).powerFailReq = s.powerFailReq := rfl
@[simp] theorem setReg_haltLine (r : Reg) (v : Word) : (s.setReg r v).haltLine = s.haltLine := rfl
@[simp] theorem setReg_virq (r : Reg) (v : Word) : (s.setReg r v).virq = s.virq := rfl
@[simp] theorem setReg_irqState (r : Reg) (v : Word) : (s.setReg r v).irqState = s.irqState := rfl
@[simp] theorem setReg_bank (r : Reg) (v : Word) : (s.setReg r v).bank = s.bank := rfl
@[simp] theorem setReg_mem (r : Reg) (v : Word) : (s.setReg r v).mem = s.mem := rfl
@[simp] theorem setReg_chain (r : Reg) (v : Word) : (s.setReg r v).chain = s.chain := rfl
@[simp] theorem setReg_answers (r : Reg) (v : Word) : (s.setReg r v).answers = s.answers := rfl
@[simp] theorem setReg_irqAnswers (r : Reg) (v : Word) : (s.setReg r v).irqAnswers = s.irqAnswers := rfl
@[simp] theorem setReg_inputs (r : Reg) (v : Word) : (s.setReg r v).inputs = s.inputs := rfl
@[simp] theorem setReg_calls (r : Reg) (v : Word) : (s.setReg r v).calls = s.calls := rfl
@[simp] theorem setReg_start (r : Reg) (v : Word) : (s.setReg r v).start = s.start := rfl

/-! ### setPsw -/

@[simp] theorem setPsw_params (p : Word) : (s.setPsw p).params = s.params := rfl
@[simp] theorem setPsw_regs (p : Word) : (s.setPsw p).regs = s.regs := rfl
@[simp] theorem setPsw_psw (p : Word) : (s.setPsw p).psw = p := rfl
@[simp] theorem setPsw_ppc (p : Word) : (s.setPsw p).ppc = s.ppc := rfl
@[simp] theorem setPsw_ppsw (p : Word) : (s.setPsw p).ppsw = s.ppsw := rfl
@[simp] theorem setPsw_waitState (p : Word) : (s.setPsw p).waitState = s.waitState := rfl
@[simp] theorem setPsw_tracePending (p : Word) : (s.setPsw p).tracePending = s.tracePending := rfl
@[simp] theorem setPsw_busFaultPending (p : Word) : (s.setPsw p).busFaultPending = s.busFaultPending := rfl
@[simp] theorem setPsw_busFaultCount (p : Word) : (s.setPsw p).busFaultCount = s.busFaultCount := rfl
@[simp] theorem setPsw_doubleFault (p : Word) : (s.setPsw p).doubleFault = s.doubleFault := rfl
@[simp] theorem setPsw_eventLatch (p : Word) : (s.setPsw p).eventLatch = s.eventLatch := rfl
@[simp] theorem setPsw_powerFailReq (p : Word) : (s.setPsw p).powerFailReq = s.powerFailReq := rfl
@[simp] theorem setPsw_haltLine (p : Word) : (s.setPsw p).haltLine = s.haltLine := rfl
@[simp] theorem setPsw_virq (p : Word) : (s.setPsw p).virq = s.virq := rfl
@[simp] theorem setPsw_irqState (p : Word) : (s.setPsw p).irqState = s.irqState := rfl
@[simp] theorem setPsw_bank (p : Word) : (s.setPsw p).bank = s.bank := rfl
@[simp] theorem setPsw_mem (p : Word) : (s.setPsw p).mem = s.mem := rfl
@[simp] theorem setPsw_chain (p : Word) : (s.setPsw p).chain = s.chain := rfl
@[simp] theorem setPsw_answers (p : Word) : (s.setPsw p).answers = s.answers := rfl
@[simp] theorem setPsw_irqAnswers (p : Word) : (s.setPsw p).irqAnswers = s.irqAnswers := rfl
@[simp] theorem setPsw_inputs (p : Word) : (s.setPsw p).inputs = s.inputs := rfl
@[simp] theorem setPsw_calls (p : Word) : (s.setPsw p).calls = s.calls := rfl
@[simp] theorem setPsw_start (p : Word) : (s.setPsw p).start = s.start := rfl

/-! ### record -/

@[simp] theorem record_params (c : EnvCall) : (s.record c).params = s.params := rfl
@[simp] theorem record_regs (c : EnvCall) : (s.record c).regs = s.regs := rfl
@[simp] theorem record_psw (c : EnvCall) : (s.record c).psw = s.psw := rfl
@[simp] theorem record_ppc (c : EnvCall) : (s.record c).ppc = s.ppc := rfl
@[simp] theorem record_ppsw (c : EnvCall) : (s.record c).ppsw = s.ppsw := rfl
@[simp] theorem record_waitState (c : EnvCall) : (s.record c).waitState = s.waitState := rfl
@[simp] theorem record_tracePending (c : EnvCall) : (s.record c).tracePending = s.tracePending := rfl
@[simp] theorem record_busFaultPending (c : EnvCall) : (s.record c).busFaultPending = s.busFaultPending := rfl
@[simp] theorem record_busFaultCount (c : EnvCall) : (s.record c).busFaultCount = s.busFaultCount := rfl
@[simp] theorem record_doubleFault (c : EnvCall) : (s.record c).doubleFault = s.doubleFault := rfl
@[simp] theorem record_eventLatch (c : EnvCall) : (s.record c).eventLatch = s.eventLatch := rfl
@[simp] theorem record_powerFailReq (c : EnvCall) : (s.record c).powerFailReq = s.powerFailReq := rfl
@[simp] theorem record_haltLine (c : EnvCall) : (s.record c).haltLine = s.haltLine := rfl
@[simp] theorem record_virq (c : EnvCall) : (s.record c).virq = s.virq := rfl
@[simp] theorem record_irqState (c : EnvCall) : (s.record c).irqState = s.irqState := rfl
@[simp] theorem record_bank (c : EnvCall) : (s.record c).bank = s.bank := rfl
@[simp] theorem record_mem (c : EnvCall) : (s.record c).mem = s.mem := rfl
@[simp] theorem record_chain (c : EnvCall) : (s.record c).chain = s.chain := rfl
@[simp] theorem record_answers (c : EnvCall) : (s.record c).answers = s.answers := rfl
@[simp] theorem record_irqAnswers (c : EnvCall) : (s.record c).irqAnswers = s.irqAnswers := rfl
@[simp] theorem record_inputs (c : EnvCall) : (s.record c).inputs = s.inputs := rfl
@[simp] theorem record_calls (c : EnvCall) : (s.record c).calls = c :: s.calls := rfl
@[simp] theorem record_start (c : EnvCall) : (s.record c).start = s.start := rfl

/-! ### afterCall -/

@[simp] theorem afterCall_params (c : EnvCall) : (s.afterCall c).params = s.params := rfl
@[simp] theorem afterCall_regs (c : EnvCall) : (s.afterCall c).regs = s.regs := rfl
@[simp] theorem afterCall_psw (c : EnvCall) : (s.afterCall c).psw = s.psw := rfl
@[simp] theorem afterCall_ppc (c : EnvCall) : (s.afterCall c).ppc = s.ppc := rfl
@[simp] theorem afterCall_ppsw (c : EnvCall) : (s.afterCall c).ppsw = s.ppsw := rfl
@[simp] theorem afterCall_waitState (c : EnvCall) : (s.afterCall c).waitState = s.waitState := rfl
@[simp] theorem afterCall_tracePending (c : EnvCall) : (s.afterCall c).tracePending = s.tracePending := rfl
@[simp] theorem afterCall_busFaultPending (c : EnvCall) : (s.afterCall c).busFaultPending = s.busFaultPending := rfl
@[simp] theorem afterCall_busFaultCount (c : EnvCall) : (s.afterCall c).busFaultCount = s.busFaultCount := rfl
@[simp] theorem afterCall_doubleFault (c : EnvCall) : (s.afterCall c).doubleFault = s.doubleFault := rfl
@[simp] theorem afterCall_eventLatch (c : EnvCall) : (s.afterCall c).eventLatch = s.eventLatch := rfl
@[simp] theorem afterCall_powerFailReq (c : EnvCall) : (s.afterCall c).powerFailReq = s.powerFailReq := rfl
@[simp] theorem afterCall_haltLine (c : EnvCall) : (s.afterCall c).haltLine = s.haltLine := rfl
@[simp] theorem afterCall_virq (c : EnvCall) : (s.afterCall c).virq = s.virq := rfl
@[simp] theorem afterCall_irqState (c : EnvCall) : (s.afterCall c).irqState = s.irqState := rfl
@[simp] theorem afterCall_bank (c : EnvCall) : (s.afterCall c).bank = s.bank := rfl
@[simp] theorem afterCall_mem (c : EnvCall) : (s.afterCall c).mem = s.mem := rfl
@[simp] theorem afterCall_chain (c : EnvCall) : (s.afterCall c).chain = s.chain := rfl
@[simp] theorem afterCall_answers (c : EnvCall) : (s.afterCall c).answers = s.answers.tail := rfl
@[simp] theorem afterCall_irqAnswers (c : EnvCall) : (s.afterCall c).irqAnswers = s.irqAnswers := rfl
@[simp] theorem afterCall_inputs (c : EnvCall) : (s.afterCall c).inputs = s.inputs := rfl
@[simp] theorem afterCall_calls (c : EnvCall) : (s.afterCall c).calls = c :: s.calls := rfl
@[simp] theorem afterCall_start (c : EnvCall) : (s.afterCall c).start = s.start := rfl

/-! ### bankSwitch -/

@[simp] theorem bankSwitch_params (b : Bank) : (s.bankSwitch b).params = s.params := rfl
@[simp] theorem bankSwitch_regs (b : Bank) : (s.bankSwitch b).regs = s.regs := rfl
@[simp] theorem bankSwitch_psw (b : Bank) : (s.bankSwitch b).psw = s.psw := rfl
@[simp] theorem bankSwitch_ppc (b : Bank) : (s.bankSwitch b).ppc = s.ppc := rfl
@[simp] theorem bankSwitch_ppsw (b : Bank) : (s.bankSwitch b).ppsw = s.ppsw := rfl
@[simp] theorem bankSwitch_waitState (b : Bank) : (s.bankSwitch b).waitState = s.waitState := rfl
@[simp] theorem bankSwitch_tracePending (b : Bank) : (s.bankSwitch b).tracePending = s.tracePending := rfl
@[simp] theorem bankSwitch_busFaultPending (b : Bank) : (s.bankSwitch b).busFaultPending = s.busFaultPending := rfl
@[simp] theorem bankSwitch_busFaultCount (b : Bank) : (s.bankSwitch b).busFaultCount = s.busFaultCount := rfl
@[simp] theorem bankSwitch_doubleFault (b : Bank) : (s.bankSwitch b).doubleFault = s.doubleFault := rfl
@[simp] theorem bankSwitch_eventLatch (b : Bank) : (s.bankSwitch b).eventLatch = s.eventLatch := rfl
@[simp] theorem bankSwitch_powerFailReq (b : Bank) : (s.bankSwitch b).powerFailReq = s.powerFailReq := rfl
@[simp] theorem bankSwitch_haltLine (b : Bank) : (s.bankSwitch b).haltLine = s.haltLine := rfl
@[simp] theorem bankSwitch_virq (b : Bank) : (s.bankSwitch b).virq = s.virq := rfl
@[simp] theorem bankSwitch_irqState (b : Bank) : (s.bankSwitch b).irqState = s.irqState := rfl
@[simp] theorem bankSwitch_bank (b : Bank) : (s.bankSwitch b).bank = b := rfl
@[simp] theorem bankSwitch_mem (b : Bank) : (s.bankSwitch b).mem = s.mem := rfl
@[simp] theorem bankSwitch_chain (b : Bank) : (s.bankSwitch b).chain = s.chain := rfl
@[simp] theorem bankSwitch_answers (b : Bank) : (s.bankSwitch b).answers = s.answers := rfl
@[simp] theorem bankSwitch_irqAnswers (b : Bank) : (s.bankSwitch b).irqAnswers = s.irqAnswers := rfl
@[simp] theorem bankSwitch_inputs (b : Bank) : (s.bankSwitch b).inputs = s.inputs := rfl
@[simp] theorem bankSwitch_calls (b : Bank) : (s.bankSwitch b).calls = .bankSwitch b :: s.calls := rfl
@[simp] theorem bankSwitch_start (b : Bank) : (s.bankSwitch b).start = s.start := rfl

/-! ### writePsw -/

@[simp] theorem writePsw_params (v : Word) : (s.writePsw v).params = s.params := rfl
@[simp] theorem writePsw_regs (v : Word) : (s.writePsw v).regs = s.regs := rfl
@[simp] theorem writePsw_psw (v : Word) : (s.writePsw v).psw = v &&& pswImpl s.params.variant := rfl
@[simp] theorem writePsw_ppc (v : Word) : (s.writePsw v).ppc = s.ppc := rfl
@[simp] theorem writePsw_ppsw (v : Word) : (s.writePsw v).ppsw = s.ppsw := rfl
@[simp] theorem writePsw_waitState (v : Word) : (s.writePsw v).waitState = s.waitState := rfl
@[simp] theorem writePsw_tracePending (v : Word) : (s.writePsw v).tracePending = s.tracePending := rfl
@[simp] theorem writePsw_busFaultPending (v : Word) : (s.writePsw v).busFaultPending = s.busFaultPending := rfl
@[simp] theorem writePsw_busFaultCount (v : Word) : (s.writePsw v).busFaultCount = s.busFaultCount := rfl
@[simp] theorem writePsw_doubleFault (v : Word) : (s.writePsw v).doubleFault = s.doubleFault := rfl
@[simp] theorem writePsw_eventLatch (v : Word) : (s.writePsw v).eventLatch = s.eventLatch := rfl
@[simp] theorem writePsw_powerFailReq (v : Word) : (s.writePsw v).powerFailReq = s.powerFailReq := rfl
@[simp] theorem writePsw_haltLine (v : Word) : (s.writePsw v).haltLine = s.haltLine := rfl
@[simp] theorem writePsw_virq (v : Word) : (s.writePsw v).virq = s.virq := rfl
@[simp] theorem writePsw_irqState (v : Word) : (s.writePsw v).irqState = s.irqState := rfl
@[simp] theorem writePsw_bank (v : Word) : (s.writePsw v).bank = s.bank := rfl
@[simp] theorem writePsw_mem (v : Word) : (s.writePsw v).mem = s.mem := rfl
@[simp] theorem writePsw_chain (v : Word) : (s.writePsw v).chain = s.chain := rfl
@[simp] theorem writePsw_answers (v : Word) : (s.writePsw v).answers = s.answers := rfl
@[simp] theorem writePsw_irqAnswers (v : Word) : (s.writePsw v).irqAnswers = s.irqAnswers := rfl
@[simp] theorem writePsw_inputs (v : Word) : (s.writePsw v).inputs = s.inputs := rfl
@[simp] theorem writePsw_calls (v : Word) : (s.writePsw v).calls = s.calls := rfl
@[simp] theorem writePsw_start (v : Word) : (s.writePsw v).start = s.start := rfl

/-! ### storeMem -/

@[simp] theorem storeMem_params (sz : Size) (a v : Word) : (s.storeMem sz a v).params = s.params := by cases sz <;> rfl
@[simp] theorem storeMem_regs (sz : Size) (a v : Word) : (s.storeMem sz a v).regs = s.regs := by cases sz <;> rfl
@[simp] theorem storeMem_psw (sz : Size) (a v : Word) : (s.storeMem sz a v).psw = s.psw := by cases sz <;> rfl
@[simp] theorem storeMem_ppc (sz : Size) (a v : Word) : (s.storeMem sz a v).ppc = s.ppc := by cases sz <;> rfl
@[simp] theorem storeMem_ppsw (sz : Size) (a v : Word) : (s.storeMem sz a v).ppsw = s.ppsw := by cases sz <;> rfl
@[simp] theorem storeMem_waitState (sz : Size) (a v : Word) : (s.storeMem sz a v).waitState = s.waitState := by cases sz <;> rfl
@[simp] theorem storeMem_tracePending (sz : Size) (a v : Word) : (s.storeMem sz a v).tracePending = s.tracePending := by cases sz <;> rfl
@[simp] theorem storeMem_busFaultPending (sz : Size) (a v : Word) : (s.storeMem sz a v).busFaultPending = s.busFaultPending := by cases sz <;> rfl
@[simp] theorem storeMem_busFaultCount (sz : Size) (a v : Word) : (s.storeMem sz a v).busFaultCount = s.busFaultCount := by cases sz <;> rfl
@[simp] theorem storeMem_doubleFault (sz : Size) (a v : Word) : (s.storeMem sz a v).doubleFault = s.doubleFault := by cases sz <;> rfl
@[simp] theorem storeMem_eventLatch (sz : Size) (a v : Word) : (s.storeMem sz a v).eventLatch = s.eventLatch := by cases sz <;> rfl
@[simp] theorem storeMem_powerFailReq (sz : Size) (a v : Word) : (s.storeMem sz a v).powerFailReq = s.powerFailReq := by cases sz <;> rfl
@[simp] theorem storeMem_haltLine (sz : Size) (a v : Word) : (s.storeMem sz a v).haltLine = s.haltLine := by cases sz <;> rfl
@[simp] theorem storeMem_virq (sz : Size) (a v : Word) : (s.storeMem sz a v).virq = s.virq := by cases sz <;> rfl
@[simp] theorem storeMem_irqState (sz : Size) (a v : Word) : (s.storeMem sz a v).irqState = s.irqState := by cases sz <;> rfl
@[simp] theorem storeMem_bank (sz : Size) (a v : Word) : (s.storeMem sz a v).bank = s.bank := by cases sz <;> rfl
@[simp] theorem storeMem_chain (sz : Size) (a v : Word) : (s.storeMem sz a v).chain = s.chain := by cases sz <;> rfl
@[simp] theorem storeMem_answers (sz : Size) (a v : Word) : (s.storeMem sz a v).answers = s.answers := by cases sz <;> rfl
@[simp] theorem storeMem_irqAnswers (sz : Size) (a v : Word) : (s.storeMem sz a v).irqAnswers = s.irqAnswers := by cases sz <;> rfl
@[simp] theorem storeMem_inputs (sz : Size) (a v : Word) : (s.storeMem sz a v).inputs = s.inputs := by cases sz <;> rfl
@[simp] theorem storeMem_calls (sz : Size) (a v : Word) : (s.storeMem sz a v).calls = s.calls := by cases sz <;> rfl
@[simp] theorem storeMem_start (sz : Size) (a v : Word) : (s.storeMem sz a v).start = s.start := by cases sz <;> rfl

@[simp] theorem storeMem_byte_mem (a v : Word) :
    (s.storeMem .byte a v).mem = s.mem.write (s.phys a) (lowByte v) := rfl

@[simp] theorem storeMem_word_mem (a v : Word) :
    (s.storeMem .word a v).mem = (s.mem.write (s.phys a) (lowByte v)).write (s.phys (a + 1)) (highByte v) := rfl

/-! ### bankFollows -/

@[simp] theorem bankFollows_params (h : Bool) : (s.bankFollows h).params = s.params := by
  unfold State.bankFollows; split <;> rfl
@[simp] theorem bankFollows_regs (h : Bool) : (s.bankFollows h).regs = s.regs := by
  unfold State.bankFollows; split <;> rfl
@[simp] theorem bankFollows_psw (h : Bool) : (s.bankFollows h).psw = s.psw := by
  unfold State.bankFollows; split <;> rfl
@[simp] theorem bankFollows_ppc (h : Bool) : (s.bankFollows h).ppc = s.ppc := by
  unfold State.bankFollows; split <;> rfl
@[simp] theorem bankFollows_ppsw (h : Bool) : (s.bankFollows h).ppsw = s.ppsw := by
  unfold State.bankFollows; split <;> rfl
@[simp] theorem bankFollows_waitState (h : Bool) : (s.bankFollows h).waitState = s.waitState := by
  unfold State.bankFollows; split <;> rfl
@[simp] theorem bankFollows_tracePending (h : Bool) : (s.bankFollows h).tracePending = s.tracePending := by
  unfold State.bankFollows; split <;> rfl
@[simp] theorem bankFollows_busFaultPending (h : Bool) : (s.bankFollows h).busFaultPending = s.busFaultPending := by
  unfold State.bankFollows; split <;> rfl
@[simp] theorem bankFollows_busFaultCount (h : Bool) : (s.bankFollows h).busFaultCount = s.busFaultCount := by
  unfold State.bankFollows; split <;> rfl
@[simp] theorem bankFollows_doubleFault (h : Bool) : (s.bankFollows h).doubleFault = s.doubleFault := by
  unfold State.bankFollows; split <;> rfl
@[simp] theorem bankFollows_eventLatch (h : Bool) : (s.bankFollows h).eventLatch = s.eventLatch := by
  unfold State.bankFollows; split <;> rfl
@[simp] theorem bankFollows_powerFailReq (h : Bool) : (s.bankFollows h).powerFailReq = s.powerFailReq := by
  unfold State.bankFollows; split <;> rfl
@[simp] theorem bankFollows_haltLine (h : Bool) : (s.bankFollows h).haltLine = s.haltLine := by
  unfold State.bankFollows; split <;> rfl
@[simp] theorem bankFollows_virq (h : Bool) : (s.bankFollows h).virq = s.virq := by
  unfold State.bankFollows; split <;> rfl
@[simp] theorem bankFollows_irqState (h : Bool) : (s.bankFollows h).irqState = s.irqState := by
  unfold State.bankFollows; split <;> rfl
@[simp] theorem bankFollows_mem (h : Bool) : (s.bankFollows h).mem = s.mem := by
  unfold State.bankFollows; split <;> rfl
@[simp] theorem bankFollows_chain (h : Bool) : (s.bankFollows h).chain = s.chain := by
  unfold State.bankFollows; split <;> rfl
@[simp] theorem bankFollows_answers (h : Bool) : (s.bankFollows h).answers = s.answers := by
  unfold State.bankFollows; split <;> rfl
@[simp] theorem bankFollows_irqAnswers (h : Bool) : (s.bankFollows h).irqAnswers = s.irqAnswers := by
  unfold State.bankFollows; split <;> rfl
@[simp] theorem bankFollows_inputs (h : Bool) : (s.bankFollows h).inputs = s.inputs := by
  unfold State.bankFollows; split <;> rfl
@[simp] theorem bankFollows_start (h : Bool) : (s.bankFollows h).start = s.start := by
  unfold State.bankFollows; split <;> rfl

/-! ### restore -/

@[simp] theorem restore_params (snap : Snapshot) : (s.restore snap).params = s.params := by
  simp [State.restore]
@[simp] theorem restore_regs (snap : Snapshot) : (s.restore snap).regs = snap.regs := by
  simp [State.restore]
@[simp] theorem restore_psw (snap : Snapshot) : (s.restore snap).psw = snap.psw := by
  simp [State.restore]
@[simp] theorem restore_ppc (snap : Snapshot) : (s.restore snap).ppc = s.ppc := by
  simp [State.restore]
@[simp] theorem restore_ppsw (snap : Snapshot) : (s.restore snap).ppsw = s.ppsw := by
  simp [State.restore]
@[simp] theorem restore_waitState (snap : Snapshot) : (s.restore snap).waitState = s.waitState := by
  simp [State.restore]
@[simp] theorem restore_tracePending (snap : Snapshot) : (s.restore snap).tracePending = s.tracePending := by
  simp [State.restore]
@[simp] theorem restore_busFaultPending (snap : Snapshot) : (s.restore snap).busFaultPending = s.busFaultPending := by
  simp [State.restore]
@[simp] theorem restore_busFaultCount (snap : Snapshot) : (s.restore snap).busFaultCount = s.busFaultCount := by
  simp [State.restore]
@[simp] theorem restore_doubleFault (snap : Snapshot) : (s.restore snap).doubleFault = s.doubleFault := by
  simp [State.restore]
@[simp] theorem restore_eventLatch (snap : Snapshot) : (s.restore snap).eventLatch = s.eventLatch := by
  simp [State.restore]
@[simp] theorem restore_powerFailReq (snap : Snapshot) : (s.restore snap).powerFailReq = s.powerFailReq := by
  simp [State.restore]
@[simp] theorem restore_haltLine (snap : Snapshot) : (s.restore snap).haltLine = s.haltLine := by
  simp [State.restore]
@[simp] theorem restore_virq (snap : Snapshot) : (s.restore snap).virq = s.virq := by
  simp [State.restore]
@[simp] theorem restore_irqState (snap : Snapshot) : (s.restore snap).irqState = s.irqState := by
  simp [State.restore]
@[simp] theorem restore_mem (snap : Snapshot) : (s.restore snap).mem = s.mem := by
  simp [State.restore]
@[simp] theorem restore_chain (snap : Snapshot) : (s.restore snap).chain = s.chain := by
  simp [State.restore]
@[simp] theorem restore_answers (snap : Snapshot) : (s.restore snap).answers = s.answers := by
  simp [State.restore]
@[simp] theorem restore_irqAnswers (snap : Snapshot) : (s.restore snap).irqAnswers = s.irqAnswers := by
  simp [State.restore]
@[simp] theorem restore_inputs (snap : Snapshot) : (s.restore snap).inputs = s.inputs := by
  simp [State.restore]
@[simp] theorem restore_start (snap : Snapshot) : (s.restore snap).start = s.start := by
  simp [State.restore]

/-! ### abort and complete -/

@[simp] theorem abort_params : s.abort.params = s.params := by
  simp [State.abort]
@[simp] theorem abort_regs : s.abort.regs = s.start.regs.set .pc (abortPc s.params.faultPc s.start.regs.pc) := by
  simp [State.abort]
@[simp] theorem abort_psw : s.abort.psw = s.start.psw := by
  simp [State.abort]
@[simp] theorem abort_ppc : s.abort.ppc = s.ppc := by
  simp [State.abort]
@[simp] theorem abort_ppsw : s.abort.ppsw = s.ppsw := by
  simp [State.abort]
@[simp] theorem abort_waitState : s.abort.waitState = s.waitState := by
  simp [State.abort]
@[simp] theorem abort_tracePending : s.abort.tracePending = s.tracePending := by
  simp [State.abort]
@[simp] theorem abort_busFaultPending : s.abort.busFaultPending = s.busFaultPending := by
  simp [State.abort]
@[simp] theorem abort_busFaultCount : s.abort.busFaultCount = s.busFaultCount := by
  simp [State.abort]
@[simp] theorem abort_doubleFault : s.abort.doubleFault = s.doubleFault := by
  simp [State.abort]
@[simp] theorem abort_eventLatch : s.abort.eventLatch = s.eventLatch := by
  simp [State.abort]
@[simp] theorem abort_powerFailReq : s.abort.powerFailReq = s.powerFailReq := by
  simp [State.abort]
@[simp] theorem abort_haltLine : s.abort.haltLine = s.haltLine := by
  simp [State.abort]
@[simp] theorem abort_virq : s.abort.virq = s.virq := by
  simp [State.abort]
@[simp] theorem abort_irqState : s.abort.irqState = s.irqState := by
  simp [State.abort]
@[simp] theorem abort_mem : s.abort.mem = s.mem := by
  simp [State.abort]
@[simp] theorem abort_chain : s.abort.chain = s.chain := by
  simp [State.abort]
@[simp] theorem abort_answers : s.abort.answers = s.answers := by
  simp [State.abort]
@[simp] theorem abort_irqAnswers : s.abort.irqAnswers = s.irqAnswers := by
  simp [State.abort]
@[simp] theorem abort_inputs : s.abort.inputs = s.inputs := by
  simp [State.abort]
@[simp] theorem abort_start : s.abort.start = s.start := by
  simp [State.abort]
@[simp] theorem complete_params (how : Completion) : (s.complete how).params = s.params := rfl
@[simp] theorem complete_regs (how : Completion) : (s.complete how).regs = s.regs := rfl
@[simp] theorem complete_psw (how : Completion) : (s.complete how).psw = s.psw := rfl
@[simp] theorem complete_ppc (how : Completion) : (s.complete how).ppc = s.ppc := rfl
@[simp] theorem complete_ppsw (how : Completion) : (s.complete how).ppsw = s.ppsw := rfl
@[simp] theorem complete_waitState (how : Completion) : (s.complete how).waitState = s.waitState := rfl
@[simp] theorem complete_busFaultPending (how : Completion) : (s.complete how).busFaultPending = s.busFaultPending := rfl
@[simp] theorem complete_busFaultCount (how : Completion) : (s.complete how).busFaultCount = s.busFaultCount := rfl
@[simp] theorem complete_doubleFault (how : Completion) : (s.complete how).doubleFault = s.doubleFault := rfl
@[simp] theorem complete_eventLatch (how : Completion) : (s.complete how).eventLatch = s.eventLatch := rfl
@[simp] theorem complete_powerFailReq (how : Completion) : (s.complete how).powerFailReq = s.powerFailReq := rfl
@[simp] theorem complete_haltLine (how : Completion) : (s.complete how).haltLine = s.haltLine := rfl
@[simp] theorem complete_virq (how : Completion) : (s.complete how).virq = s.virq := rfl
@[simp] theorem complete_irqState (how : Completion) : (s.complete how).irqState = s.irqState := rfl
@[simp] theorem complete_bank (how : Completion) : (s.complete how).bank = s.bank := rfl
@[simp] theorem complete_mem (how : Completion) : (s.complete how).mem = s.mem := rfl
@[simp] theorem complete_chain (how : Completion) : (s.complete how).chain = s.chain := rfl
@[simp] theorem complete_answers (how : Completion) : (s.complete how).answers = s.answers := rfl
@[simp] theorem complete_irqAnswers (how : Completion) : (s.complete how).irqAnswers = s.irqAnswers := rfl
@[simp] theorem complete_inputs (how : Completion) : (s.complete how).inputs = s.inputs := rfl
@[simp] theorem complete_calls (how : Completion) : (s.complete how).calls = s.calls := rfl
@[simp] theorem complete_start (how : Completion) : (s.complete how).start = s.start := rfl

@[simp] theorem complete_ordinary_tracePending :
    (s.complete .ordinary).tracePending = (s.tracePending || flagT s.start.psw) := rfl

@[simp] theorem complete_rti_tracePending :
    (s.complete .rti).tracePending = (s.tracePending || (flagT s.start.psw || flagT s.psw)) := rfl

@[simp] theorem complete_rtt_tracePending : (s.complete .rtt).tracePending = s.tracePending := by
  simp [State.complete]

/-! ### leavePrivileged and install -/

@[simp] theorem leavePrivileged_params : s.leavePrivileged.params = s.params := by
  unfold State.leavePrivileged; split <;> rfl
@[simp] theorem leavePrivileged_regs : s.leavePrivileged.regs = s.regs := by
  unfold State.leavePrivileged; split <;> rfl
@[simp] theorem leavePrivileged_ppc : s.leavePrivileged.ppc = s.ppc := by
  unfold State.leavePrivileged; split <;> rfl
@[simp] theorem leavePrivileged_ppsw : s.leavePrivileged.ppsw = s.ppsw := by
  unfold State.leavePrivileged; split <;> rfl
@[simp] theorem leavePrivileged_waitState : s.leavePrivileged.waitState = s.waitState := by
  unfold State.leavePrivileged; split <;> rfl
@[simp] theorem leavePrivileged_tracePending : s.leavePrivileged.tracePending = s.tracePending := by
  unfold State.leavePrivileged; split <;> rfl
@[simp] theorem leavePrivileged_busFaultPending : s.leavePrivileged.busFaultPending = s.busFaultPending := by
  unfold State.leavePrivileged; split <;> rfl
@[simp] theorem leavePrivileged_busFaultCount : s.leavePrivileged.busFaultCount = s.busFaultCount := by
  unfold State.leavePrivileged; split <;> rfl
@[simp] theorem leavePrivileged_doubleFault : s.leavePrivileged.doubleFault = s.doubleFault := by
  unfold State.leavePrivileged; split <;> rfl
@[simp] theorem leavePrivileged_eventLatch : s.leavePrivileged.eventLatch = s.eventLatch := by
  unfold State.leavePrivileged; split <;> rfl
@[simp] theorem leavePrivileged_powerFailReq : s.leavePrivileged.powerFailReq = s.powerFailReq := by
  unfold State.leavePrivileged; split <;> rfl
@[simp] theorem leavePrivileged_haltLine : s.leavePrivileged.haltLine = s.haltLine := by
  unfold State.leavePrivileged; split <;> rfl
@[simp] theorem leavePrivileged_virq : s.leavePrivileged.virq = s.virq := by
  unfold State.leavePrivileged; split <;> rfl
@[simp] theorem leavePrivileged_irqState : s.leavePrivileged.irqState = s.irqState := by
  unfold State.leavePrivileged; split <;> rfl
@[simp] theorem leavePrivileged_mem : s.leavePrivileged.mem = s.mem := by
  unfold State.leavePrivileged; split <;> rfl
@[simp] theorem leavePrivileged_chain : s.leavePrivileged.chain = s.chain := by
  unfold State.leavePrivileged; split <;> rfl
@[simp] theorem leavePrivileged_answers : s.leavePrivileged.answers = s.answers := by
  unfold State.leavePrivileged; split <;> rfl
@[simp] theorem leavePrivileged_irqAnswers : s.leavePrivileged.irqAnswers = s.irqAnswers := by
  unfold State.leavePrivileged; split <;> rfl
@[simp] theorem leavePrivileged_inputs : s.leavePrivileged.inputs = s.inputs := by
  unfold State.leavePrivileged; split <;> rfl
@[simp] theorem leavePrivileged_start : s.leavePrivileged.start = s.start := by
  unfold State.leavePrivileged; split <;> rfl
@[simp] theorem install_params (newPc newPsw : Word) : (s.install newPc newPsw).params = s.params := by
  simp only [State.install]; split <;> rfl
@[simp] theorem install_regs (newPc newPsw : Word) : (s.install newPc newPsw).regs = s.regs.set .pc newPc := by
  simp only [State.install]; split <;> rfl
@[simp] theorem install_psw (newPc newPsw : Word) : (s.install newPc newPsw).psw = newPsw &&& pswImpl s.params.variant := by
  simp only [State.install]; split <;> rfl
@[simp] theorem install_ppc (newPc newPsw : Word) : (s.install newPc newPsw).ppc = s.ppc := by
  simp only [State.install]; split <;> rfl
@[simp] theorem install_ppsw (newPc newPsw : Word) : (s.install newPc newPsw).ppsw = s.ppsw := by
  simp only [State.install]; split <;> rfl
@[simp] theorem install_waitState (newPc newPsw : Word) : (s.install newPc newPsw).waitState = false := rfl
@[simp] theorem install_tracePending (newPc newPsw : Word) : (s.install newPc newPsw).tracePending = s.tracePending := by
  simp only [State.install]; split <;> rfl
@[simp] theorem install_busFaultPending (newPc newPsw : Word) : (s.install newPc newPsw).busFaultPending = s.busFaultPending := by
  simp only [State.install]; split <;> rfl
@[simp] theorem install_busFaultCount (newPc newPsw : Word) : (s.install newPc newPsw).busFaultCount = s.busFaultCount := by
  simp only [State.install]; split <;> rfl
@[simp] theorem install_doubleFault (newPc newPsw : Word) : (s.install newPc newPsw).doubleFault = s.doubleFault := by
  simp only [State.install]; split <;> rfl
@[simp] theorem install_eventLatch (newPc newPsw : Word) : (s.install newPc newPsw).eventLatch = s.eventLatch := by
  simp only [State.install]; split <;> rfl
@[simp] theorem install_powerFailReq (newPc newPsw : Word) : (s.install newPc newPsw).powerFailReq = s.powerFailReq := by
  simp only [State.install]; split <;> rfl
@[simp] theorem install_haltLine (newPc newPsw : Word) : (s.install newPc newPsw).haltLine = s.haltLine := by
  simp only [State.install]; split <;> rfl
@[simp] theorem install_virq (newPc newPsw : Word) : (s.install newPc newPsw).virq = s.virq := by
  simp only [State.install]; split <;> rfl
@[simp] theorem install_irqState (newPc newPsw : Word) : (s.install newPc newPsw).irqState = s.irqState := by
  simp only [State.install]; split <;> rfl
@[simp] theorem install_mem (newPc newPsw : Word) : (s.install newPc newPsw).mem = s.mem := by
  simp only [State.install]; split <;> rfl
@[simp] theorem install_chain (newPc newPsw : Word) : (s.install newPc newPsw).chain = s.chain := by
  simp only [State.install]; split <;> rfl
@[simp] theorem install_answers (newPc newPsw : Word) : (s.install newPc newPsw).answers = s.answers := by
  simp only [State.install]; split <;> rfl
@[simp] theorem install_irqAnswers (newPc newPsw : Word) : (s.install newPc newPsw).irqAnswers = s.irqAnswers := by
  simp only [State.install]; split <;> rfl
@[simp] theorem install_inputs (newPc newPsw : Word) : (s.install newPc newPsw).inputs = s.inputs := by
  simp only [State.install]; split <;> rfl
@[simp] theorem install_start (newPc newPsw : Word) : (s.install newPc newPsw).start = s.start := by
  simp only [State.install]; split <;> rfl

end

/-! ### Register file -/

@[simp] theorem Regs.get_set_same (g : Regs) (r : Reg) (v : Word) : (g.set r v).get r = v := by cases r <;> rfl

@[simp] theorem Regs.get_set_ne (g : Regs) {r q : Reg} (v : Word) (h : q ≠ r) : (g.set r v).get q = g.get q := by
  cases r <;> cases q <;> first | rfl | exact absurd rfl h

@[simp] theorem Regs.set_set (g : Regs) (r : Reg) (v w : Word) : (g.set r v).set r w = g.set r w := by cases r <;> rfl

theorem Regs.set_comm (g : Regs) {r q : Reg} (v w : Word) (h : q ≠ r) :
    (g.set r v).set q w = (g.set q w).set r v := by
  cases r <;> cases q <;> first | rfl | exact absurd rfl h

@[simp] theorem Regs.set_get (g : Regs) (r : Reg) : g.set r (g.get r) = g := by cases r <;> rfl

/-- Two files that agree in every register are the same. -/
theorem Regs.ext_get {g h : Regs} (e : ∀ r, g.get r = h.get r) : g = h := by
  cases g
  cases h
  have e0 := e .r0; have e1 := e .r1; have e2 := e .r2; have e3 := e .r3
  have e4 := e .r4; have e5 := e .r5; have e6 := e .sp; have e7 := e .pc
  simp_all [Regs.get]

@[simp] theorem Regs.get_pc (g : Regs) : g.get .pc = g.pc := rfl
@[simp] theorem Regs.get_sp (g : Regs) : g.get .sp = g.sp := rfl

@[simp] theorem setReg_reg_same (s : State) (r : Reg) (v : Word) : (s.setReg r v).reg r = v := by simp [State.reg]

@[simp] theorem setReg_reg_ne (s : State) {r q : Reg} (v : Word) (h : q ≠ r) : (s.setReg r v).reg q = s.reg q := by
  simp [State.reg, h]

@[simp] theorem setReg_setReg (s : State) (r : Reg) (v w : Word) : (s.setReg r v).setReg r w = s.setReg r w := by
  simp [State.setReg]

@[simp] theorem setReg_phys (s : State) (r : Reg) (v a : Word) : (s.setReg r v).phys a = s.phys a := rfl
@[simp] theorem setPsw_phys (s : State) (p a : Word) : (s.setPsw p).phys a = s.phys a := rfl
@[simp] theorem afterCall_phys (s : State) (c : EnvCall) (a : Word) : (s.afterCall c).phys a = s.phys a := rfl
@[simp] theorem storeMem_phys (s : State) (sz : Size) (b v a : Word) : (s.storeMem sz b v).phys a = s.phys a := by
  cases sz <;> rfl
@[simp] theorem setReg_memValue (s : State) (r : Reg) (v : Word) (sz : Size) (a : Word) :
    (s.setReg r v).memValue sz a = s.memValue sz a := rfl
@[simp] theorem afterCall_memValue (s : State) (c : EnvCall) (sz : Size) (a : Word) :
    (s.afterCall c).memValue sz a = s.memValue sz a := rfl
@[simp] theorem setReg_reg_pc_sp (s : State) (v : Word) : (s.setReg .pc v).reg .sp = s.reg .sp := rfl
@[simp] theorem setReg_extended (s : State) (r : Reg) (v : Word) : (s.setReg r v).extended = s.extended := rfl

end Sys2Proof.Machine
end

