-- ==== Sys2Proof/Laws/Memory.lean ====
section
/-! SUPPORT. The laws of memory: read after write, and that every operation keeps the canonical form. -/

namespace Sys2Proof.Machine

theorem Memory.read_cons_same (m : Memory) (a : Nat) (v : Byte) (h : v ≠ unlistedByte) :
    Memory.read (Memory.cons a v m) a = v := by
  simp [Memory.cons, h, Memory.read]

theorem Memory.read_cons_ne (m : Memory) {a b : Nat} (v : Byte) (h : a ≠ b) :
    Memory.read (Memory.cons a v m) b = Memory.read m b := by
  unfold Memory.cons
  split
  · rfl
  · simp [Memory.read, h]

/-- An address below every listed one reads as unlisted. -/
theorem Memory.read_of_above {m : Memory} {a : Nat} (h : Memory.above a m = true) :
    Memory.read m a = unlistedByte := by
  induction m with
  | nil => rfl
  | cons c m ih =>
    obtain ⟨k, w⟩ := c
    simp only [Memory.above, List.all_cons, Bool.and_eq_true, decide_eq_true_eq] at h
    have hne : k ≠ a := by omega
    simp only [Memory.read, hne, if_false]
    exact ih h.2

theorem Memory.above_mono {m : Memory} {a b : Nat} (hab : a ≤ b) (h : Memory.above b m = true) :
    Memory.above a m = true := by
  simp only [Memory.above, List.all_eq_true, decide_eq_true_eq] at *
  intro c hc
  have := h c hc
  omega

theorem Memory.above_cons {m : Memory} {a k : Nat} {v : Byte} (hk : a < k) (h : Memory.above a m = true) :
    Memory.above a (Memory.cons k v m) = true := by
  unfold Memory.cons
  split
  · exact h
  · simp only [Memory.above, List.all_cons, Bool.and_eq_true, decide_eq_true_eq]
    exact ⟨hk, h⟩

theorem Memory.above_write {m : Memory} {a k : Nat} (v : Byte) (hk : a < k) (h : Memory.above a m = true) :
    Memory.above a (Memory.write m k v) = true := by
  induction m with
  | nil => exact Memory.above_cons hk h
  | cons c m ih =>
    obtain ⟨j, w⟩ := c
    have h' := h
    simp only [Memory.above, List.all_cons, Bool.and_eq_true, decide_eq_true_eq] at h'
    unfold Memory.write
    split
    · exact Memory.above_cons hk h
    · split
      · exact Memory.above_cons hk h'.2
      · simp only [Memory.above, List.all_cons, Bool.and_eq_true, decide_eq_true_eq]
        exact ⟨h'.1, ih h'.2⟩

theorem Memory.wf_cons {m : Memory} {k : Nat} (v : Byte) (ha : Memory.above k m = true) (h : m.wf = true) :
    (Memory.cons k v m).wf = true := by
  unfold Memory.cons
  split
  · exact h
  · rename_i hv
    simp [Memory.wf, hv, ha, h]

/-- A write keeps the canonical form. -/
theorem Memory.wf_write {m : Memory} (h : m.wf = true) (a : Nat) (v : Byte) : (m.write a v).wf = true := by
  induction m with
  | nil => exact Memory.wf_cons v rfl rfl
  | cons c m ih =>
    obtain ⟨k, w⟩ := c
    have h' := h
    simp only [Memory.wf, Bool.and_eq_true] at h'
    obtain ⟨⟨hw, hk⟩, hm⟩ := h'
    unfold Memory.write
    split
    · rename_i hak
      refine Memory.wf_cons v ?_ h
      simp only [Memory.above, List.all_cons, Bool.and_eq_true, decide_eq_true_eq]
      exact ⟨hak, Memory.above_mono (Nat.le_of_lt hak) hk⟩
    · split
      · rename_i hak
        exact Memory.wf_cons v (hak ▸ hk) hm
      · have hlt : k < a := by omega
        simp only [Memory.wf, Bool.and_eq_true]
        exact ⟨⟨hw, Memory.above_write v hlt hk⟩, ih hm⟩

/-- A read of the address written gives the value written. -/
theorem Memory.read_write_same {m : Memory} (h : m.wf = true) (a : Nat) (v : Byte) : (m.write a v).read a = v := by
  have key : ∀ n : Memory, Memory.above a n = true → Memory.read (Memory.cons a v n) a = v := by
    intro n hn
    unfold Memory.cons
    split
    · rename_i hv
      rw [Memory.read_of_above hn, hv]
    · simp [Memory.read]
  induction m with
  | nil => exact key [] rfl
  | cons c m ih =>
    obtain ⟨k, w⟩ := c
    have h' := h
    simp only [Memory.wf, Bool.and_eq_true] at h'
    obtain ⟨⟨hw, hk⟩, hm⟩ := h'
    unfold Memory.write
    split
    · rename_i hak
      refine key _ ?_
      simp only [Memory.above, List.all_cons, Bool.and_eq_true, decide_eq_true_eq]
      exact ⟨hak, Memory.above_mono (Nat.le_of_lt hak) hk⟩
    · split
      · rename_i hak
        exact key _ (hak ▸ hk)
      · have hne : k ≠ a := by omega
        simp only [Memory.read, hne, if_false]
        exact ih hm

/-- A write leaves every other address alone. -/
theorem Memory.read_write_ne (m : Memory) {a b : Nat} (v : Byte) (hab : a ≠ b) : (m.write a v).read b = m.read b := by
  induction m with
  | nil => exact Memory.read_cons_ne _ v hab
  | cons c m ih =>
    obtain ⟨k, w⟩ := c
    unfold Memory.write
    split
    · exact Memory.read_cons_ne _ v hab
    · split
      · rename_i hak
        subst hak
        rw [Memory.read_cons_ne _ v hab]
        simp [Memory.read, hab]
      · simp only [Memory.read]
        split
        · rfl
        · exact ih

theorem storeMem_wf {s : State} (h : s.mem.wf = true) (sz : Size) (a v : Word) : (s.storeMem sz a v).mem.wf = true := by
  cases sz
  · exact Memory.wf_write (Memory.wf_write h _ _) _ _
  · exact Memory.wf_write h _ _

theorem storeMem_read_other (s : State) (sz : Size) (a v : Word) {p : Nat} (hp : p ∉ s.storeBytes sz a) :
    (s.storeMem sz a v).mem.read p = s.mem.read p := by
  cases sz
  · simp only [State.storeBytes, List.mem_cons, List.not_mem_nil, or_false, not_or] at hp
    rw [storeMem_word_mem, Memory.read_write_ne _ _ (Ne.symm hp.2), Memory.read_write_ne _ _ (Ne.symm hp.1)]
  · simp only [State.storeBytes, List.mem_cons, List.not_mem_nil, or_false] at hp
    rw [storeMem_byte_mem, Memory.read_write_ne _ _ (Ne.symm hp)]

end Sys2Proof.Machine
end

