-- ==== Sys2Proof/Laws/Actions.lean ====
section
/-! SUPPORT. How actions run: equations for the steps an action is made of, everything one bus access can do, and two
ways to speak of a whole action at once: a relation between the state before and after (`Relates`), and that it
never fails on a bus that answers (`Serves`). -/

namespace Sys2Proof.Machine

variable {α β : Type}

@[simp] theorem act_pure (a : α) (s : State) : (pure a : Act α) s = .ok a s := rfl

theorem act_bind (x : Act α) (f : α → Act β) (s : State) :
    (x >>= f) s = match x s with
      | .ok a t => f a t
      | .error e t => .error e t := by
  change EStateM.bind x f s = _
  unfold EStateM.bind
  cases x s <;> rfl

theorem act_bind_ok {x : Act α} {f : α → Act β} {s t : State} {a : α} (h : x s = .ok a t) :
    (x >>= f) s = f a t := by
  rw [act_bind, h]

theorem act_bind_error {x : Act α} {f : α → Act β} {s t : State} {e : Stop} (h : x s = .error e t) :
    (x >>= f) s = .error e t := by
  rw [act_bind, h]

/-- A sequence that ends has a first part that ends and a rest that ends. -/
theorem act_bind_inv {x : Act α} {f : α → Act β} {s u : State} {b : β} (h : (x >>= f) s = .ok b u) :
    ∃ a t, x s = .ok a t ∧ f a t = .ok b u := by
  rw [act_bind] at h
  split at h
  · exact ⟨_, _, ‹_›, h⟩
  · cases h

@[simp] theorem look_run (f : State → α) (s : State) : look f s = .ok (f s) s := rfl
@[simp] theorem update_run (f : State → State) (s : State) : update f s = .ok () (f s) := rfl
@[simp] theorem getReg_run (r : Reg) (s : State) : getReg r s = .ok (s.reg r) s := rfl
@[simp] theorem setReg_run (r : Reg) (v : Word) (s : State) : setReg r v s = .ok () (s.setReg r v) := rfl

@[simp] theorem bind_look (f : State → α) (g : α → Act β) (s : State) : (look f >>= g) s = g (f s) s := rfl
@[simp] theorem bind_update (f : State → State) (g : Unit → Act β) (s : State) :
    (update f >>= g) s = g () (f s) := rfl
@[simp] theorem bind_getReg (r : Reg) (g : Word → Act β) (s : State) : (getReg r >>= g) s = g (s.reg r) s := rfl
@[simp] theorem bind_setReg (r : Reg) (v : Word) (g : Unit → Act β) (s : State) :
    (setReg r v >>= g) s = g () (s.setReg r v) := rfl

/-! ### One bus access -/

/-- The state a bus failure leaves (spec/20_memory.md R76). -/
def State.failed (s : State) : State :=
  { s with busFaultPending := true, busFaultCount := s.busFaultCount + 1 }

/-- All a read can do: an odd word access fails before the bus under FAULT, the environment fails it, or it gives
data; nothing but the call, the answer and the failure record changes. -/
theorem memRead_cases (sz : Size) (a : Word) (s : State) :
    (s.oddFails sz a = true ∧ memRead sz a s = .error .busFailure s.failed) ∨
    (s.oddFails sz a = false ∧ s.nextAnswer = .fail ∧
      memRead sz a s = .error .busFailure (s.afterCall (.read (accessAddr sz a) sz)).failed) ∨
    (s.oddFails sz a = false ∧ s.nextAnswer = .memory ∧
      memRead sz a s = .ok (s.memValue sz (accessAddr sz a)) (s.afterCall (.read (accessAddr sz a) sz))) ∨
    (∃ v, s.oddFails sz a = false ∧ s.nextAnswer = .device v ∧
      memRead sz a s = .ok (sz.trim v) (s.afterCall (.read (accessAddr sz a) sz))) := by
  unfold memRead
  cases ho : s.oddFails sz a
  · right
    cases hn : s.nextAnswer with
    | memory => exact .inr (.inl ⟨rfl, rfl, by simp [busRead, hn]⟩)
    | device v => exact .inr (.inr ⟨v, rfl, rfl, by simp [busRead, hn]⟩)
    | fail => exact .inl ⟨rfl, rfl, by simp [busRead, hn, busFailure, State.failed]⟩
  · exact .inl ⟨rfl, rfl⟩

/-- All a write can do. -/
theorem memWrite_cases (sz : Size) (a v : Word) (s : State) :
    (s.oddFails sz a = true ∧ memWrite sz a v s = .error .busFailure s.failed) ∨
    (s.oddFails sz a = false ∧ s.nextAnswer = .fail ∧ memWrite sz a v s =
      .error .busFailure (s.afterCall (.write (accessAddr sz a) sz (sz.trim v))).failed) ∨
    (s.oddFails sz a = false ∧ s.nextAnswer = .memory ∧ memWrite sz a v s =
      .ok () ((s.afterCall (.write (accessAddr sz a) sz (sz.trim v))).storeMem sz (accessAddr sz a) v)) ∨
    (∃ w, s.oddFails sz a = false ∧ s.nextAnswer = .device w ∧ memWrite sz a v s =
      .ok () (s.afterCall (.write (accessAddr sz a) sz (sz.trim v)))) := by
  unfold memWrite
  cases ho : s.oddFails sz a
  · right
    cases hn : s.nextAnswer with
    | memory => exact .inr (.inl ⟨rfl, rfl, by simp [busWrite, hn]⟩)
    | device w => exact .inr (.inr ⟨w, rfl, rfl, by simp [busWrite, hn]⟩)
    | fail => exact .inl ⟨rfl, rfl, by simp [busWrite, hn, busFailure, State.failed]⟩
  · exact .inl ⟨rfl, rfl⟩

/-! ### Relating the state before and after an action -/

/-- Every end of the action is related to its start: `P` where it ends with a value, `Q` where it is stopped. -/
structure Relates (P : State → State → Prop) (Q : Stop → State → State → Prop) (m : Act α) : Prop where
  ok    : ∀ {s a t}, m s = .ok a t → P s t
  error : ∀ {s e t}, m s = .error e t → Q e s t

/-- What a pair of relations needs so that sequences respect it. -/
structure Composes (P : State → State → Prop) (Q : Stop → State → State → Prop) : Prop where
  refl  : ∀ s, P s s
  trans : ∀ {s t u}, P s t → P t u → P s u
  stop  : ∀ {e s t u}, P s t → Q e t u → Q e s u

section
variable {P : State → State → Prop} {Q : Stop → State → State → Prop}

theorem relates_pure (c : Composes P Q) (a : α) : Relates P Q (pure a : Act α) where
  ok h := by cases h; exact c.refl _
  error h := by cases h

theorem relates_look (c : Composes P Q) (f : State → α) : Relates P Q (look f) where
  ok h := by cases h; exact c.refl _
  error h := by cases h

theorem relates_update {f : State → State} (h : ∀ s, P s (f s)) : Relates P Q (update f) where
  ok e := by cases e; exact h _
  error e := by cases e

theorem relates_bind (c : Composes P Q) {x : Act α} {f : α → Act β} (hx : Relates P Q x)
    (hf : ∀ a, Relates P Q (f a)) : Relates P Q (x >>= f) where
  ok {s b u} h := by
    obtain ⟨a, t, h1, h2⟩ := act_bind_inv h
    exact c.trans (hx.ok h1) ((hf a).ok h2)
  error {s e u} h := by
    rw [act_bind] at h
    split at h
    · exact c.stop (hx.ok ‹_›) ((hf _).error h)
    · cases h; exact hx.error ‹_›

/-- What a bus read needs to respect the relations. -/
structure ReadRelated (P : State → State → Prop) (Q : Stop → State → State → Prop) : Prop where
  call   : ∀ s c, P s (s.afterCall c)
  failed : ∀ s, Q .busFailure s s.failed

/-- What a bus access of either kind needs to respect the relations. -/
structure AccessRelated (P : State → State → Prop) (Q : Stop → State → State → Prop) : Prop extends
    ReadRelated P Q where
  store  : ∀ s sz a v, P s (s.storeMem sz a v)

theorem relates_memRead (c : Composes P Q) (h : ReadRelated P Q) (sz : Size) (a : Word) :
    Relates P Q (memRead sz a) where
  ok {s v t} e := by
    rcases memRead_cases sz a s with ⟨-, k⟩ | ⟨-, -, k⟩ | ⟨-, -, k⟩ | ⟨w, -, -, k⟩ <;> rw [k] at e <;> cases e
    · exact h.call _ _
    · exact h.call _ _
  error {s f t} e := by
    rcases memRead_cases sz a s with ⟨-, k⟩ | ⟨-, -, k⟩ | ⟨-, -, k⟩ | ⟨w, -, -, k⟩ <;> rw [k] at e <;> cases e
    · exact h.failed _
    · exact c.stop (h.call _ _) (h.failed _)

theorem relates_memWrite (c : Composes P Q) (h : AccessRelated P Q) (sz : Size) (a v : Word) :
    Relates P Q (memWrite sz a v) where
  ok {s _ t} e := by
    rcases memWrite_cases sz a v s with ⟨-, k⟩ | ⟨-, -, k⟩ | ⟨-, -, k⟩ | ⟨w, -, -, k⟩ <;> rw [k] at e <;> cases e
    · exact c.trans (h.call _ _) (h.store _ _ _ _)
    · exact h.call _ _
  error {s f t} e := by
    rcases memWrite_cases sz a v s with ⟨-, k⟩ | ⟨-, -, k⟩ | ⟨-, -, k⟩ | ⟨w, -, -, k⟩ <;> rw [k] at e <;> cases e
    · exact h.failed _
    · exact c.stop (h.call _ _) (h.failed _)

end

/-! ### Actions on a bus that answers -/

/-- On a bus that answers, the action ends with a value, and the bus still answers. -/
def Serves (m : Act α) : Prop := ∀ s : State, s.BusServes → ∃ a t, m s = .ok a t ∧ t.BusServes

theorem serves_pure (a : α) : Serves (pure a : Act α) := fun s h => ⟨a, s, rfl, h⟩

theorem serves_look (f : State → α) : Serves (look f) := fun s h => ⟨f s, s, rfl, h⟩

theorem serves_update {f : State → State} (h : ∀ s : State, s.BusServes → (f s).BusServes) : Serves (update f) :=
  fun s hs => ⟨(), f s, rfl, h s hs⟩

theorem serves_bind {x : Act α} {f : α → Act β} (hx : Serves x) (hf : ∀ a, Serves (f a)) : Serves (x >>= f) := by
  intro s hs
  obtain ⟨a, t, h1, ht⟩ := hx s hs
  obtain ⟨b, u, h2, hu⟩ := hf a t ht
  exact ⟨b, u, by rw [act_bind_ok h1, h2], hu⟩

theorem State.BusServes.afterCall {s : State} (h : s.BusServes) (c : EnvCall) : (s.afterCall c).BusServes :=
  ⟨h.aligns, fun hm => h.answers (List.mem_of_mem_tail hm)⟩

theorem State.BusServes.nextAnswer {s : State} (h : s.BusServes) : s.nextAnswer ≠ .fail := by
  intro hn
  unfold State.nextAnswer at hn
  cases ha : s.answers with
  | nil => simp [ha] at hn
  | cons x xs =>
    rw [ha] at hn
    exact h.answers (by rw [ha]; simp only [List.headD_cons] at hn; simp [hn])

theorem State.BusServes.oddFails {s : State} (h : s.BusServes) (sz : Size) (a : Word) : s.oddFails sz a = false := by
  simp [State.oddFails, h.aligns]

theorem serves_memRead (sz : Size) (a : Word) : Serves (memRead sz a) := by
  intro s hs
  rcases memRead_cases sz a s with ⟨k, -⟩ | ⟨-, k, -⟩ | ⟨-, -, k⟩ | ⟨w, -, -, k⟩
  · rw [hs.oddFails] at k; cases k
  · exact absurd k hs.nextAnswer
  · exact ⟨_, _, k, hs.afterCall _⟩
  · exact ⟨_, _, k, hs.afterCall _⟩

theorem serves_memWrite (sz : Size) (a v : Word) : Serves (memWrite sz a v) := by
  intro s hs
  rcases memWrite_cases sz a v s with ⟨k, -⟩ | ⟨-, k, -⟩ | ⟨-, -, k⟩ | ⟨w, -, -, k⟩
  · rw [hs.oddFails] at k; cases k
  · exact absurd k hs.nextAnswer
  · refine ⟨_, _, k, ?_⟩
    have := hs.afterCall (.write (accessAddr sz a) sz (sz.trim v))
    exact ⟨by simpa using this.aligns, by simpa using this.answers⟩
  · exact ⟨_, _, k, hs.afterCall _⟩

end Sys2Proof.Machine
end

