-- ==== Sys2Proof/Laws/Flags.lean ====
section
/-! SUPPORT. The bytes of a word; the bits of the PSW: what writing a field does to every bit, and which bits each flag computation may
change. -/

namespace Sys2Proof.Machine

@[simp] theorem highByte_joinBytes (hi lo : Byte) : highByte (joinBytes hi lo) = hi := by
  apply BitVec.eq_of_getLsbD_eq
  intro i h
  simp only [highByte, joinBytes, BitVec.getLsbD_extractLsb', BitVec.getLsbD_append, h, decide_true, Bool.true_and]
  rw [if_neg (by omega), show 8 + i - 8 = i by omega]

@[simp] theorem lowByte_joinBytes (hi lo : Byte) : lowByte (joinBytes hi lo) = lo := by
  apply BitVec.eq_of_getLsbD_eq
  intro i h
  simp only [lowByte, joinBytes, BitVec.getLsbD_extractLsb', BitVec.getLsbD_append, h, decide_true, Bool.true_and]
  rw [if_pos (by omega), show 0 + i = i by omega]

@[simp] theorem joinBytes_bytes (w : Word) : joinBytes (highByte w) (lowByte w) = w := by
  apply BitVec.eq_of_getLsbD_eq
  intro i h
  simp only [joinBytes, lowByte, highByte, BitVec.getLsbD_append, BitVec.getLsbD_extractLsb']
  by_cases k : i < 8
  · simp [k]
  · simp [k, show i - 8 < 8 by omega, show 8 + (i - 8) = i by omega]

/-- Setting bit `i` of a word gives it that value and keeps every other bit. -/
theorem getLsbD_withBit {i : Nat} (hi : i < 16) (b : Bool) (w : Word) (j : Nat) :
    (withBit i b w).getLsbD j = if j = i then b else w.getLsbD j := by
  have one : (1#16 <<< i).getLsbD j = decide (j = i) := by
    simp only [BitVec.getLsbD_shiftLeft, BitVec.getLsbD_one]
    by_cases h : j = i
    · subst h; simp [hi]
    · have : ¬ (j - i = 0 ∧ ¬ j < i) := by omega
      simp only [h, decide_false]
      by_cases h1 : j < i
      · simp [h1]
      · have : j - i ≠ 0 := by omega
        simp [this]
  unfold withBit
  split
  · rename_i hb
    rw [BitVec.getLsbD_or, one]
    by_cases h : j = i <;> simp [h, hb]
  · rename_i hb
    rw [BitVec.getLsbD_and, BitVec.getLsbD_not, one]
    by_cases h : j = i
    · simp_all
    · by_cases hj : j < 16
      · simp [h, hj]
      · simp [h, BitVec.getLsbD_of_ge w j (by omega)]

@[simp] theorem getLsbD_withC (b : Bool) (p : Word) (j : Nat) :
    (withC b p).getLsbD j = if j = 0 then b else p.getLsbD j := getLsbD_withBit (by omega) b p j
@[simp] theorem getLsbD_withV (b : Bool) (p : Word) (j : Nat) :
    (withV b p).getLsbD j = if j = 1 then b else p.getLsbD j := getLsbD_withBit (by omega) b p j
@[simp] theorem getLsbD_withZ (b : Bool) (p : Word) (j : Nat) :
    (withZ b p).getLsbD j = if j = 2 then b else p.getLsbD j := getLsbD_withBit (by omega) b p j
@[simp] theorem getLsbD_withN (b : Bool) (p : Word) (j : Nat) :
    (withN b p).getLsbD j = if j = 3 then b else p.getLsbD j := getLsbD_withBit (by omega) b p j
@[simp] theorem getLsbD_withH (b : Bool) (p : Word) (j : Nat) :
    (withH b p).getLsbD j = if j = 8 then b else p.getLsbD j :=
  getLsbD_withBit (i := 8) (by omega) b p j

/-- The PSW bits a computation may change. -/
def Changes (status : Nat → Prop) (f : Word → Word) : Prop := ∀ p i, ¬ status i → (f p).getLsbD i = p.getLsbD i

theorem Changes.mono {a b : Nat → Prop} {f : Word → Word} (h : Changes a f) (hab : ∀ i, a i → b i) : Changes b f :=
  fun p i hi => h p i fun ha => hi (hab i ha)

/-- N and Z. -/
theorem getLsbD_setNZ (sz : Size) (r p : Word) (j : Nat) : (setNZ sz r p).getLsbD j =
    if j = 3 then r.getLsbD sz.msb else if j = 2 then sz.trim r == 0 else p.getLsbD j := by
  simp [setNZ]

theorem changes_logicFlags (sz : Size) (r : Word) : Changes flagsNZV (logicFlags sz r) := by
  intro p i hi
  simp only [flagsNZV, not_and, not_lt] at hi
  have h : i = 0 ∨ 4 ≤ i := by omega
  have h1 : i ≠ 1 := by omega
  have h2 : i ≠ 2 := by omega
  have h3 : i ≠ 3 := by omega
  simp [logicFlags, getLsbD_setNZ, h1, h2, h3]

/-- A chain of flag writes changes condition codes alone. -/
theorem changes_four {f : Word → Word} (h : ∀ p i, 4 ≤ i → (f p).getLsbD i = p.getLsbD i) : Changes flagsNZVC f :=
  fun p i hi => h p i (by simpa [flagsNZVC] using hi)

theorem changes_addFlags (sz : Size) (a b : Word) (c : Word → Bool) :
    Changes flagsNZVC fun p => (addFlags sz a b (c p) p).2 :=
  changes_four fun p i hi => by
    simp [addFlags, getLsbD_setNZ, show i ≠ 3 by omega, show i ≠ 2 by omega, show i ≠ 1 by omega, show i ≠ 0 by omega]

theorem changes_subFlags (sz : Size) (a b : Word) (c : Word → Bool) :
    Changes flagsNZVC fun p => (subFlags sz a b (c p) p).2 :=
  changes_four fun p i hi => by
    simp [subFlags, getLsbD_setNZ, show i ≠ 3 by omega, show i ≠ 2 by omega, show i ≠ 1 by omega, show i ≠ 0 by omega]

theorem changes_shiftFlags (sz : Size) (r : Word → Word) (c : Bool) :
    Changes flagsNZVC fun p => shiftFlags sz (r p) c p :=
  changes_four fun p i hi => by
    simp [shiftFlags, getLsbD_setNZ, show i ≠ 3 by omega, show i ≠ 2 by omega, show i ≠ 1 by omega, show i ≠ 0 by omega]

theorem changes_clr : Changes flagsNZVC fun p => (clrResult p).2 :=
  changes_four fun p i hi => by
    simp [clrResult, show i ≠ 3 by omega, show i ≠ 2 by omega, show i ≠ 1 by omega, show i ≠ 0 by omega]

theorem changes_com (sz : Size) (x : Word) : Changes flagsNZVC fun p => (comResult sz x p).2 :=
  changes_four fun p i hi => by
    simp [comResult, getLsbD_setNZ, show i ≠ 3 by omega, show i ≠ 2 by omega, show i ≠ 1 by omega, show i ≠ 0 by omega]

theorem changes_inc (sz : Size) (x : Word) : Changes flagsNZV fun p => (incResult sz x p).2 := by
  intro p i hi
  simp only [flagsNZV, not_and, not_lt] at hi
  simp [incResult, getLsbD_setNZ, show i ≠ 3 by omega, show i ≠ 2 by omega, show i ≠ 1 by omega]

theorem changes_dec (sz : Size) (x : Word) : Changes flagsNZV fun p => (decResult sz x p).2 := by
  intro p i hi
  simp only [flagsNZV, not_and, not_lt] at hi
  simp [decResult, getLsbD_setNZ, show i ≠ 3 by omega, show i ≠ 2 by omega, show i ≠ 1 by omega]

theorem changes_tst (sz : Size) (x : Word) : Changes flagsNZVC (tstFlags sz x) :=
  changes_four fun p i hi => by
    simp [tstFlags, getLsbD_setNZ, show i ≠ 3 by omega, show i ≠ 2 by omega, show i ≠ 1 by omega, show i ≠ 0 by omega]

theorem changes_swab (x : Word) : Changes flagsNZVC fun p => (swabResult x p).2 :=
  changes_four fun p i hi => by
    simp [swabResult, getLsbD_setNZ, show i ≠ 3 by omega, show i ≠ 2 by omega, show i ≠ 1 by omega, show i ≠ 0 by omega]

theorem changes_sxt : Changes (fun i => i = 1 ∨ i = 2) fun p => (sxtResult p).2 := by
  intro p i hi
  simp only [not_or] at hi
  simp [sxtResult, hi.1, hi.2]

/-- MTPS writes bits 7:5 and 3:0. -/
theorem getLsbD_mtps (v p : Word) (i : Nat) :
    (mtpsPsw v p).getLsbD i = if i ≠ 4 ∧ i < 8 then v.getLsbD i else p.getLsbD i := by
  by_cases h : i < 16
  · have m : (0x00EF : Word).getLsbD i = decide (i ≠ 4 ∧ i < 8) := by
      interval_cases i <;> rfl
    simp only [mtpsPsw, BitVec.getLsbD_or, BitVec.getLsbD_and, BitVec.getLsbD_not, m]
    by_cases hc : i ≠ 4 ∧ i < 8
    · simp [hc, h]
    · simp [hc, h]
  · have h8 : ¬ (i ≠ 4 ∧ i < 8) := by omega
    simp [h8, BitVec.getLsbD_of_ge _ i (show 16 ≤ i by omega)]

theorem changes_mtps (v : Word) : Changes (fun i => i ≠ 4 ∧ i < 8) (mtpsPsw v) := by
  intro p i hi
  rw [getLsbD_mtps, if_neg hi]

end Sys2Proof.Machine
end

