-- ==== Sys2Proof/Laws/Operands.lean ====
section
/-! SUPPORT. What the resolver, the operand shapes and the stack operations can do: for each, a relation that every
part respects is respected by the whole (`relates_…`), and on a bus that answers it ends with a value (`serves_…`). -/

namespace Sys2Proof.Machine

section
variable {P : State → State → Prop} {Q : Stop → State → State → Prop}

theorem relates_getReg (c : Composes P Q) (r : Reg) : Relates P Q (getReg r) := relates_look c _

theorem relates_setReg {r : Reg} (h : ∀ s v, P s (s.setReg r v)) (v : Word) : Relates P Q (setReg r v) :=
  relates_update fun s => h s v

theorem relates_fetchWord (c : Composes P Q) (b : ReadRelated P Q) (pc : ∀ s v, P s (s.setReg .pc v)) :
    Relates P Q fetchWord := by
  unfold fetchWord
  refine relates_bind c (relates_update fun s => pc s _) fun _ => relates_bind c (relates_getReg c _) fun _ => ?_
  exact relates_bind c (relates_memRead c b _ _) fun _ =>
    relates_bind c (relates_update fun s => pc s _) fun _ => relates_pure c _

theorem relates_push (c : Composes P Q) (b : AccessRelated P Q) (sp : ∀ s v, P s (s.setReg .sp v)) (v : Word) :
    Relates P Q (push v) := by
  unfold push
  exact relates_bind c (relates_update fun s => sp s _) fun _ => relates_bind c (relates_getReg c _) fun _ =>
    relates_memWrite c b _ _ _

theorem relates_pop (c : Composes P Q) (b : ReadRelated P Q) (sp : ∀ s v, P s (s.setReg .sp v)) :
    Relates P Q pop := by
  unfold pop
  refine relates_bind c (relates_getReg c _) fun _ => relates_bind c (relates_memRead c b _ _) fun _ => ?_
  exact relates_bind c (relates_update fun s => sp s _) fun _ => relates_pure c _

theorem relates_stepUp (c : Composes P Q) {r : Reg} (h : ∀ s v, P s (s.setReg r v)) (k : Word) :
    Relates P Q (stepUp r k) := by
  unfold stepUp
  exact relates_bind c (relates_getReg c _) fun _ => relates_bind c (relates_setReg h _) fun _ => relates_pure c _

theorem relates_stepDown (c : Composes P Q) {r : Reg} (h : ∀ s v, P s (s.setReg r v)) (k : Word) :
    Relates P Q (stepDown r k) := by
  unfold stepDown
  exact relates_bind c (relates_getReg c _) fun _ => relates_bind c (relates_setReg h _) fun _ => relates_getReg c _

theorem relates_indexed (c : Composes P Q) (b : ReadRelated P Q) (pc : ∀ s v, P s (s.setReg .pc v)) (r : Reg) :
    Relates P Q (indexed r) := by
  unfold indexed
  exact relates_bind c (relates_fetchWord c b pc) fun _ => relates_bind c (relates_getReg c _) fun _ =>
    relates_pure c _

/-- The resolver reads words, moves PC, and steps the register of a stepping mode; nothing else. -/
theorem relates_resolve (c : Composes P Q) (b : ReadRelated P Q) (pc : ∀ s v, P s (s.setReg .pc v)) (sz : Size)
    (o : Operand) (step : ∀ r, stepsReg o r → ∀ s v, P s (s.setReg r v)) : Relates P Q (resolve sz o) := by
  obtain ⟨m, r⟩ := o
  have mem {x : Act Word} (hx : Relates P Q x) : Relates P Q (x >>= fun a => pure (Loc.mem a)) :=
    relates_bind c hx fun _ => relates_pure c _
  have ptr {x : Act Word} (hx : Relates P Q x) :
      Relates P Q (x >>= fun p => memRead .word p >>= fun a => pure (Loc.mem a)) :=
    relates_bind c hx fun _ => relates_bind c (relates_memRead c b _ _) fun _ => relates_pure c _
  cases m
  · exact relates_pure c _
  · exact mem (relates_getReg c r)
  · exact mem (relates_stepUp c (step r ⟨rfl, by simp⟩) _)
  · exact ptr (relates_stepUp c (step r ⟨rfl, by simp⟩) _)
  · exact mem (relates_stepDown c (step r ⟨rfl, by simp⟩) _)
  · exact ptr (relates_stepDown c (step r ⟨rfl, by simp⟩) _)
  · exact mem (relates_indexed c b pc r)
  · exact ptr (relates_indexed c b pc r)

theorem relates_locRead (c : Composes P Q) (b : ReadRelated P Q) (sz : Size) (l : Loc) :
    Relates P Q (locRead sz l) := by
  cases l with
  | reg r => exact relates_look c _
  | mem a => exact relates_memRead c b _ _

theorem relates_readResolved (c : Composes P Q) (b : ReadRelated P Q) (sz : Size) (o : Operand) (l : Loc) :
    Relates P Q (readResolved sz o l) := by
  unfold readResolved
  split
  · exact relates_bind c (relates_locRead c b _ _) fun _ => relates_pure c _
  · exact relates_locRead c b _ _

theorem relates_readOperand (c : Composes P Q) (b : ReadRelated P Q) (pc : ∀ s v, P s (s.setReg .pc v)) (sz : Size)
    (o : Operand) (step : ∀ r, stepsReg o r → ∀ s v, P s (s.setReg r v)) : Relates P Q (readOperand sz o) :=
  relates_bind c (relates_resolve c b pc sz o step) fun _ => relates_readResolved c b _ _ _

theorem relates_locWrite (c : Composes P Q) (b : AccessRelated P Q) (sz : Size) (l : Loc) (v : Word)
    (reg : ∀ r, l = .reg r → ∀ s v, P s (s.setReg r v)) : Relates P Q (locWrite sz l v) := by
  cases l with
  | reg r =>
    cases sz
    · exact relates_setReg (reg r rfl) _
    · exact relates_update fun s => reg r rfl s _
  | mem a => cases sz <;> exact relates_memWrite c b _ _ _

theorem relates_storeExtended (c : Composes P Q) (b : AccessRelated P Q) (l : Loc) (v : Word)
    (reg : ∀ r, l = .reg r → ∀ s v, P s (s.setReg r v)) : Relates P Q (storeExtended l v) := by
  cases l with
  | reg r => exact relates_setReg (reg r rfl) _
  | mem a => exact relates_memWrite c b _ _ _

/-- A resolved location that is a register is the register of a register-mode operand. -/
theorem resolve_reg {sz : Size} {o : Operand} {s t : State} {r : Reg} (h : resolve sz o s = .ok (.reg r) t) :
    o = ⟨.register, r⟩ ∧ t = s := by
  obtain ⟨m, q⟩ := o
  have no {x : Act Word} (e : (x >>= fun a => pure (Loc.mem a)) s = .ok (.reg r) t) : False := by
    obtain ⟨a, u, -, k⟩ := act_bind_inv e
    cases k
  have no' {x : Act Word} (e : (x >>= fun p => memRead .word p >>= fun a => pure (Loc.mem a)) s = .ok (.reg r) t) :
      False := by
    obtain ⟨a, u, -, k⟩ := act_bind_inv e
    obtain ⟨_, _, -, k⟩ := act_bind_inv k
    cases k
  cases m
  · cases h; exact ⟨rfl, rfl⟩
  · exact (no h).elim
  · exact (no h).elim
  · exact (no' h).elim
  · exact (no h).elim
  · exact (no' h).elim
  · exact (no h).elim
  · exact (no' h).elim

end

/-! ### On a bus that answers -/

theorem State.BusServes.setReg {s : State} (h : s.BusServes) (r : Reg) (v : Word) : (s.setReg r v).BusServes :=
  ⟨h.aligns, h.answers⟩

theorem State.BusServes.setPsw {s : State} (h : s.BusServes) (p : Word) : (s.setPsw p).BusServes :=
  ⟨h.aligns, h.answers⟩

theorem serves_getReg (r : Reg) : Serves (getReg r) := serves_look _

theorem serves_setReg (r : Reg) (v : Word) : Serves (setReg r v) := serves_update fun _ h => h.setReg r v

theorem serves_fetchWord : Serves fetchWord := by
  unfold fetchWord
  refine serves_bind (serves_update fun _ h => h.setReg _ _) fun _ => serves_bind (serves_getReg _) fun _ => ?_
  exact serves_bind (serves_memRead _ _) fun _ => serves_bind (serves_update fun _ h => h.setReg _ _) fun _ =>
    serves_pure _

theorem serves_push (v : Word) : Serves (push v) := by
  unfold push
  exact serves_bind (serves_update fun _ h => h.setReg _ _) fun _ => serves_bind (serves_getReg _) fun _ =>
    serves_memWrite _ _ _

theorem serves_pop : Serves pop := by
  unfold pop
  refine serves_bind (serves_getReg _) fun _ => serves_bind (serves_memRead _ _) fun _ => ?_
  exact serves_bind (serves_update fun _ h => h.setReg _ _) fun _ => serves_pure _

theorem serves_stepUp (r : Reg) (k : Word) : Serves (stepUp r k) := by
  unfold stepUp
  exact serves_bind (serves_getReg _) fun _ => serves_bind (serves_setReg _ _) fun _ => serves_pure _

theorem serves_stepDown (r : Reg) (k : Word) : Serves (stepDown r k) := by
  unfold stepDown
  exact serves_bind (serves_getReg _) fun _ => serves_bind (serves_setReg _ _) fun _ => serves_getReg _

theorem serves_indexed (r : Reg) : Serves (indexed r) := by
  unfold indexed
  exact serves_bind serves_fetchWord fun _ => serves_bind (serves_getReg _) fun _ => serves_pure _

theorem serves_resolve (sz : Size) (o : Operand) : Serves (resolve sz o) := by
  obtain ⟨m, r⟩ := o
  have mem {x : Act Word} (hx : Serves x) : Serves (x >>= fun a => pure (Loc.mem a)) :=
    serves_bind hx fun _ => serves_pure _
  have ptr {x : Act Word} (hx : Serves x) : Serves (x >>= fun p => memRead .word p >>= fun a => pure (Loc.mem a)) :=
    serves_bind hx fun _ => serves_bind (serves_memRead _ _) fun _ => serves_pure _
  cases m
  · exact serves_pure _
  · exact mem (serves_getReg r)
  · exact mem (serves_stepUp _ _)
  · exact ptr (serves_stepUp _ _)
  · exact mem (serves_stepDown _ _)
  · exact ptr (serves_stepDown _ _)
  · exact mem (serves_indexed r)
  · exact ptr (serves_indexed r)

theorem serves_locRead (sz : Size) (l : Loc) : Serves (locRead sz l) := by
  cases l with
  | reg r => exact serves_look _
  | mem a => exact serves_memRead _ _

theorem serves_readResolved (sz : Size) (o : Operand) (l : Loc) : Serves (readResolved sz o l) := by
  unfold readResolved
  split
  · exact serves_bind (serves_locRead _ _) fun _ => serves_pure _
  · exact serves_locRead _ _

theorem serves_readOperand (sz : Size) (o : Operand) : Serves (readOperand sz o) :=
  serves_bind (serves_resolve sz o) fun _ => serves_readResolved _ _ _

/-- A byte immediate makes the read of a word immediate, and is its low byte. -/
theorem readOperand_byteImmediate (s : State) :
    readOperand .byte ⟨.autoInc, .pc⟩ s = match readOperand .word ⟨.autoInc, .pc⟩ s with
      | .ok w t => .ok (w &&& 0x00FF) t
      | .error e t => .error e t := by
  change (memRead .word (s.reg .pc) >>= fun w => pure (Size.byte.trim w)) (s.setReg .pc (s.reg .pc + 2)) =
    match (memRead .word (s.reg .pc) >>= fun w => pure (Size.word.trim w)) (s.setReg .pc (s.reg .pc + 2)) with
      | .ok w t => .ok (w &&& 0x00FF) t
      | .error e t => .error e t
  rw [act_bind, act_bind]
  cases memRead .word (s.reg .pc) (s.setReg .pc (s.reg .pc + 2)) <;> simp [Size.trim, Size.mask, BitVec.and_assoc]

theorem serves_locWrite (sz : Size) (l : Loc) (v : Word) : Serves (locWrite sz l v) := by
  cases l with
  | reg r =>
    cases sz
    · exact serves_setReg _ _
    · exact serves_update fun _ h => h.setReg _ _
  | mem a => cases sz <;> exact serves_memWrite _ _ _

theorem serves_storeExtended (l : Loc) (v : Word) : Serves (storeExtended l v) := by
  cases l with
  | reg r => exact serves_setReg _ _
  | mem a => exact serves_memWrite _ _ _

/-! ### The operand shapes on a bus that answers -/

theorem perform_ok {how : Completion} {rule : Act Unit} {s t : State} (h : rule s = .ok () t) :
    perform how rule s = .next (t.complete how) := by
  unfold perform; rw [h]

theorem readModifyWrite_ends {sz : Size} (dst : Operand) (f : Word → Word → Word × Word) {s : State}
    (h : s.BusServes) : ∃ l s1 x s2 s3, resolve sz dst s = .ok l s1 ∧ readResolved sz dst l s1 = .ok x s2 ∧
      locWrite sz l (f x s2.psw).1 s2 = .ok () s3 ∧
      readModifyWrite sz dst f s = .ok () (s3.setPsw (f x s2.psw).2) := by
  obtain ⟨l, s1, e1, h1⟩ := serves_resolve sz dst s h
  obtain ⟨x, s2, e2, h2⟩ := serves_readResolved sz dst l s1 h1
  obtain ⟨u, s3, e3, -⟩ := serves_locWrite sz l (f x s2.psw).1 s2 h2
  refine ⟨l, s1, x, s2, s3, e1, e2, e3, ?_⟩
  unfold readModifyWrite
  rw [act_bind_ok e1, act_bind_ok e2, bind_look, act_bind_ok e3]
  rfl

theorem writeOnly_ends {sz : Size} (dst : Operand) (f : Word → Word × Word) {s : State} (h : s.BusServes) :
    ∃ l s1 s2, resolve sz dst s = .ok l s1 ∧ locWrite sz l (f s1.psw).1 s1 = .ok () s2 ∧
      writeOnly sz dst f s = .ok () (s2.setPsw (f s1.psw).2) := by
  obtain ⟨l, s1, e1, h1⟩ := serves_resolve sz dst s h
  obtain ⟨u, s2, e2, -⟩ := serves_locWrite sz l (f s1.psw).1 s1 h1
  refine ⟨l, s1, s2, e1, e2, ?_⟩
  unfold writeOnly
  rw [act_bind_ok e1, bind_look, act_bind_ok e2]
  rfl

theorem readOnly_ends {sz : Size} (o : Operand) (f : Word → Word → Word) {s : State} (h : s.BusServes) :
    ∃ x s1, readOperand sz o s = .ok x s1 ∧ readOnly sz o f s = .ok () (s1.setPsw (f x s1.psw)) := by
  obtain ⟨x, s1, e1, -⟩ := serves_readOperand sz o s h
  refine ⟨x, s1, e1, ?_⟩
  unfold readOnly
  rw [act_bind_ok e1]
  rfl

theorem storesByte_ends (dst : Operand) (v : Word) {s : State} (h : s.BusServes) :
    ∃ l s1 s2, resolve .byte dst s = .ok l s1 ∧ storeExtended l v s1 = .ok () s2 := by
  obtain ⟨l, s1, e1, h1⟩ := serves_resolve .byte dst s h
  obtain ⟨u, s2, e2, -⟩ := serves_storeExtended l v s1 h1
  exact ⟨l, s1, s2, e1, e2⟩

end Sys2Proof.Machine
end

