-- ==== Sys2Proof/Laws/Sequences.lean ====
section
/-! SUPPORT. What taking an exception, the halt path and the return from an exception can do: each sequence is cut at
its mode change and at its install, and the part between, which only reads, pushes and moves SP, has one lemma for
any relation that those respect. -/

namespace Sys2Proof.Machine

theorem act_map {α β : Type} (x : Act α) (g : α → β) (s : State) :
    (x >>= fun a => pure (g a)) s = match x s with
      | .ok a t => .ok (g a) t
      | .error e t => .error e t := act_bind _ _ _

/-- Push a PSW and then PC, and hand on a pair. -/
def pushBoth (oldPsw : State → Word) (pair : Word × Word) : Act (Word × Word) := do
  let oldPsw ← look oldPsw
  push oldPsw
  let oldPc ← getReg .pc
  push oldPc
  pure pair

/-- The part of a trap between the mode change and the install: the vector reads and the pushes. -/
def trapBody (vec : Word) (middle : State → State) : Act (Word × Word) := do
  let newPc ← memRead .word vec
  let newPsw ← memRead .word (vec + 2)
  update middle
  pushBoth State.psw (newPc, newPsw)

/-- The same of the halt path. -/
def haltBody (vec oldPsw : Word) : Act (Word × Word) := do
  let newPc ← memRead .word vec
  let newPsw ← memRead .word (vec + 2)
  pushBoth (fun _ => oldPsw) (newPc, newPsw)

theorem bind_checkVector {β : Type} (vec : Word) (f : Unit → Act β) (s : State) :
    (checkVector vec >>= f) s = if vec &&& 3 = 0 then f () s else .error (.misaligned vec) s := by
  rw [act_bind]
  unfold checkVector
  by_cases hv : vec &&& 3 = 0
  · rw [if_pos hv, if_pos hv]
  · rw [if_neg hv, if_neg hv]

/-- All a trap sequence can do. -/
theorem trapSequence_run (vec : Word) (middle : State → State) (s : State) :
    trapSequence vec middle s =
      if vec &&& 3 = 0 then
        match trapBody vec middle s.leavePrivileged with
        | .ok p t => .ok () (t.install p.1 p.2)
        | .error e t => .error e t
      else .error (.misaligned vec) s := by
  unfold trapSequence trapBody pushBoth
  rw [bind_checkVector]
  by_cases hv : vec &&& 3 = 0
  · rw [if_pos hv, if_pos hv, bind_update]
    simp only [act_bind]
    rcases memRead .word vec s.leavePrivileged with ⟨a, s1⟩ | ⟨e, s1⟩
    · simp only []
      rcases memRead .word (vec + 2) s1 with ⟨b, s2⟩ | ⟨e, s2⟩
      · simp only [update_run, look_run, getReg_run]
        rcases push (middle s2).psw (middle s2) with ⟨_, s3⟩ | ⟨e, s3⟩
        · simp only []
          rcases push (s3.reg .pc) s3 with ⟨_, s4⟩ | ⟨e, s4⟩ <;> rfl
        · rfl
      · rfl
    · rfl
  · rw [if_neg hv, if_neg hv]

/-- All the halt path can do. -/
theorem haltPath_run (s : State) :
    haltPath s =
      if s.params.haltVector &&& 3 = 0 then
        match haltBody s.params.haltVector s.psw s.enterHalt with
        | .ok p t => .ok () (t.installHalt p.1 p.2)
        | .error e t => .error e t
      else .error (.misaligned s.params.haltVector) s := by
  unfold haltPath haltBody pushBoth
  rw [bind_look, bind_checkVector]
  by_cases hv : s.params.haltVector &&& 3 = 0
  · rw [if_pos hv, if_pos hv, bind_look, bind_update]
    simp only [act_bind]
    rcases memRead .word s.params.haltVector s.enterHalt with ⟨a, s1⟩ | ⟨e, s1⟩
    · simp only []
      rcases memRead .word (s.params.haltVector + 2) s1 with ⟨b, s2⟩ | ⟨e, s2⟩
      · simp only [look_run, getReg_run]
        rcases push s.psw s2 with ⟨_, s3⟩ | ⟨e, s3⟩
        · simp only []
          rcases push (s3.reg .pc) s3 with ⟨_, s4⟩ | ⟨e, s4⟩ <;> rfl
        · rfl
      · rfl
    · rfl
  · rw [if_neg hv, if_neg hv]

section
variable {P : State → State → Prop} {Q : Stop → State → State → Prop}

theorem relates_pushBoth (c : Composes P Q) (b : AccessRelated P Q) (sp : ∀ s v, P s (s.setReg .sp v))
    (f : State → Word) (p : Word × Word) : Relates P Q (pushBoth f p) := by
  unfold pushBoth
  refine relates_bind c (relates_look c _) fun _ => relates_bind c (relates_push c b sp _) fun _ => ?_
  exact relates_bind c (relates_getReg c _) fun _ => relates_bind c (relates_push c b sp _) fun _ => relates_pure c _

theorem relates_trapBody (c : Composes P Q) (b : AccessRelated P Q) (sp : ∀ s v, P s (s.setReg .sp v)) (vec : Word)
    {middle : State → State} (mid : ∀ s, P s (middle s)) : Relates P Q (trapBody vec middle) := by
  unfold trapBody
  refine relates_bind c (relates_memRead c b.toReadRelated _ _) fun _ => ?_
  refine relates_bind c (relates_memRead c b.toReadRelated _ _) fun _ => ?_
  exact relates_bind c (relates_update mid) fun _ => relates_pushBoth c b sp _ _

theorem relates_haltBody (c : Composes P Q) (b : AccessRelated P Q) (sp : ∀ s v, P s (s.setReg .sp v))
    (vec oldPsw : Word) : Relates P Q (haltBody vec oldPsw) := by
  unfold haltBody
  refine relates_bind c (relates_memRead c b.toReadRelated _ _) fun _ => ?_
  refine relates_bind c (relates_memRead c b.toReadRelated _ _) fun _ => ?_
  exact relates_pushBoth c b sp _ _

end

/-! ### On a bus that answers -/

theorem State.BusServes.leavePrivileged {s : State} (h : s.BusServes) : s.leavePrivileged.BusServes :=
  ⟨by simpa using h.aligns, by simpa using h.answers⟩

theorem State.BusServes.enterHalt {s : State} (h : s.BusServes) : s.enterHalt.BusServes := ⟨h.aligns, h.answers⟩

theorem push_run (v : Word) (s : State) :
    push v s = memWrite .word (s.reg .sp - 2) v (s.setReg .sp (s.reg .sp - 2)) := by
  unfold push
  rw [bind_update, bind_getReg]
  have : (s.setReg .sp (s.reg .sp - 2)).reg .sp = s.reg .sp - 2 := rfl
  rw [this]

theorem pop_run (s : State) :
    pop s = match memRead .word (s.reg .sp) s with
      | .ok v t => .ok v (t.setReg .sp (t.reg .sp + 2))
      | .error e t => .error e t := by
  unfold pop
  rw [bind_getReg, act_bind]
  split <;> simp_all

/-- On a bus that answers, a trap through a legal vector runs to its end. -/
theorem trap_enters {s : State} (h : s.BusServes) {vec : Word} (hv : vec &&& 3 = 0) :
    ∃ t, TrapEnters vec s t ∧ trap vec s = .ok () t := by
  obtain ⟨newPc, s1, e1, h1⟩ := serves_memRead .word vec s.leavePrivileged h.leavePrivileged
  obtain ⟨newPsw, s2, e2, h2⟩ := serves_memRead .word (vec + 2) s1 h1
  obtain ⟨⟨⟩, s3, e3, h3⟩ := serves_memWrite .word (s2.reg .sp - 2) s2.psw _ (h2.setReg .sp (s2.reg .sp - 2))
  obtain ⟨⟨⟩, s4, e4, -⟩ := serves_memWrite .word (s3.reg .sp - 2) (s3.reg .pc) _ (h3.setReg .sp (s3.reg .sp - 2))
  refine ⟨_, ⟨newPc, s1, newPsw, s2, s3, s4, e1, e2, e3, e4, rfl⟩, ?_⟩
  unfold trap
  rw [trapSequence_run, if_pos hv]
  unfold trapBody pushBoth
  simp only [act_bind, e1, e2, update_run, look_run, getReg_run, id, push_run, e3, e4, act_pure]

/-- On a bus that answers, the halt path through a legal vector runs to its end. -/
theorem haltPath_enters {s : State} (h : s.BusServes) (hv : s.params.haltVector &&& 3 = 0) :
    ∃ t, HaltEnters s t ∧ haltPath s = .ok () t := by
  obtain ⟨newPc, s1, e1, h1⟩ := serves_memRead .word s.params.haltVector s.enterHalt h.enterHalt
  obtain ⟨newPsw, s2, e2, h2⟩ := serves_memRead .word (s.params.haltVector + 2) s1 h1
  obtain ⟨⟨⟩, s3, e3, h3⟩ := serves_memWrite .word (s2.reg .sp - 2) s.psw _ (h2.setReg .sp (s2.reg .sp - 2))
  obtain ⟨⟨⟩, s4, e4, -⟩ := serves_memWrite .word (s3.reg .sp - 2) (s3.reg .pc) _ (h3.setReg .sp (s3.reg .sp - 2))
  refine ⟨_, ⟨newPc, s1, newPsw, s2, s3, s4, e1, e2, e3, e4, rfl⟩, ?_⟩
  rw [haltPath_run, if_pos hv]
  unfold haltBody pushBoth
  simp only [act_bind, e1, e2, look_run, getReg_run, push_run, e3, e4, act_pure]

/-- On a bus that answers, the return from an exception runs to its end. -/
theorem trapReturn_returns {s : State} (h : s.BusServes) (how : Completion) :
    Returns how s (perform how trapReturn s) := by
  obtain ⟨newPc, s1, e1, h1⟩ := serves_memRead .word (s.reg .sp) s h
  obtain ⟨newPsw, s2, e2, -⟩ := serves_memRead .word (s1.reg .sp + 2) _ (h1.setReg .sp (s1.reg .sp + 2))
  refine ⟨newPc, s1, newPsw, s2, e1, e2, perform_ok ?_⟩
  have p1 : pop s = .ok newPc (s1.setReg .sp (s1.reg .sp + 2)) := by rw [pop_run, e1]
  have p2 : pop (s1.setReg .sp (s1.reg .sp + 2)) = .ok newPsw (s2.setReg .sp (s2.reg .sp + 2)) := by
    rw [pop_run]
    have : (s1.setReg .sp (s1.reg .sp + 2)).reg .sp = s1.reg .sp + 2 := rfl
    rw [this, e2]
  unfold trapReturn
  rw [act_bind_ok p1, act_bind_ok p2]
  rfl

end Sys2Proof.Machine
end

