-- ==== Sys2Proof/Laws/Frames.lean ====
section
/-! SUPPORT. What actions leave unchanged: reads (`Quiet`), a stop (`Stopped`), a store to a location (`Stored`), and how
an instruction's frame follows from its rule's. -/

namespace Sys2Proof.Machine

theorem reg_setReg_ne (s : State) {q r : Reg} (v : Word) (h : q ≠ r) : (s.setReg r v).reg q = s.reg q :=
  Regs.get_set_ne s.regs v h

theorem reg_setReg_same (s : State) (r : Reg) (v : Word) : (s.setReg r v).reg r = v := by
  cases r <;> rfl

theorem RestKept.refl (s : State) : RestKept s s := by constructor <;> rfl

theorem RestKept.trans {s t u : State} (h : RestKept s t) (k : RestKept t u) : RestKept s u :=
  ⟨k.params.trans h.params, k.ppc.trans h.ppc, k.ppsw.trans h.ppsw, k.waitState.trans h.waitState,
    k.doubleFault.trans h.doubleFault, k.eventLatch.trans h.eventLatch, k.powerFailReq.trans h.powerFailReq,
    k.haltLine.trans h.haltLine, k.virq.trans h.virq, k.irqState.trans h.irqState, k.bank.trans h.bank,
    k.chain.trans h.chain, k.irqAnswers.trans h.irqAnswers, k.inputs.trans h.inputs, k.start.trans h.start⟩

/-- Only touched registers and the bus's answers and calls may differ. -/
structure Quiet (touched : Reg → Prop) (s t : State) : Prop where
  rest    : RestKept s t
  psw     : t.psw = s.psw
  mem     : t.mem = s.mem
  trace   : t.tracePending = s.tracePending
  pending : t.busFaultPending = s.busFaultPending
  count   : t.busFaultCount = s.busFaultCount
  regs    : ∀ r, ¬ touched r → t.reg r = s.reg r

/-- A bus failure stopped the action: the failure is recorded, and but for registers nothing else differs. -/
structure Stopped (s t : State) : Prop where
  rest    : RestKept s t
  psw     : t.psw = s.psw
  mem     : t.mem = s.mem
  trace   : t.tracePending = s.tracePending
  pending : t.busFaultPending = true
  count   : t.busFaultCount = s.busFaultCount + 1

/-- The stop of an action that only reads. -/
def QuietStop (e : Stop) (s t : State) : Prop := e = .busFailure ∧ Stopped s t

theorem Quiet.refl (touched : Reg → Prop) (s : State) : Quiet touched s s :=
  ⟨RestKept.refl s, rfl, rfl, rfl, rfl, rfl, fun _ _ => rfl⟩

theorem Quiet.trans {touched : Reg → Prop} {s t u : State} (h : Quiet touched s t) (k : Quiet touched t u) :
    Quiet touched s u :=
  ⟨h.rest.trans k.rest, k.psw.trans h.psw, k.mem.trans h.mem, k.trace.trans h.trace, k.pending.trans h.pending,
    k.count.trans h.count, fun r hr => (k.regs r hr).trans (h.regs r hr)⟩

theorem Quiet.stopped {touched : Reg → Prop} {s t u : State} (h : Quiet touched s t) (k : Stopped t u) :
    Stopped s u :=
  ⟨h.rest.trans k.rest, k.psw.trans h.psw, k.mem.trans h.mem, k.trace.trans h.trace, k.pending,
    by rw [k.count, h.count]⟩

theorem Quiet.mono {a b : Reg → Prop} {s t : State} (h : Quiet a s t) (hab : ∀ r, a r → b r) : Quiet b s t :=
  { h with regs := fun r hr => h.regs r fun ha => hr (hab r ha) }

theorem quiet_composes (touched : Reg → Prop) : Composes (Quiet touched) QuietStop where
  refl := Quiet.refl touched
  trans := Quiet.trans
  stop h k := ⟨k.1, h.stopped k.2⟩

theorem stopped_failed (s : State) : Stopped s s.failed :=
  ⟨by constructor <;> rfl, rfl, rfl, rfl, rfl, rfl⟩

theorem quiet_reads (touched : Reg → Prop) : ReadRelated (Quiet touched) QuietStop where
  call s c := ⟨by constructor <;> rfl, rfl, rfl, rfl, rfl, rfl, fun _ _ => rfl⟩
  failed s := ⟨rfl, stopped_failed s⟩

theorem quiet_setReg {touched : Reg → Prop} {r : Reg} (h : touched r) (s : State) (v : Word) :
    Quiet touched s (s.setReg r v) :=
  ⟨by constructor <;> rfl, rfl, rfl, rfl, rfl, rfl,
    fun _ hq => reg_setReg_ne s v fun e => hq (e ▸ h)⟩

/-- The resolver reads, moves PC and steps a register. -/
theorem quiet_resolve {touched : Reg → Prop} (pc : touched .pc) (sz : Size) (o : Operand)
    (step : ∀ r, stepsReg o r → touched r) : Relates (Quiet touched) QuietStop (resolve sz o) :=
  relates_resolve (quiet_composes _) (quiet_reads _) (quiet_setReg pc) sz o fun r hr => quiet_setReg (step r hr)

theorem quiet_readOperand {touched : Reg → Prop} (pc : touched .pc) (sz : Size) (o : Operand)
    (step : ∀ r, stepsReg o r → touched r) : Relates (Quiet touched) QuietStop (readOperand sz o) :=
  relates_readOperand (quiet_composes _) (quiet_reads _) (quiet_setReg pc) sz o fun r hr => quiet_setReg (step r hr)

theorem quiet_readResolved (touched : Reg → Prop) (sz : Size) (o : Operand) (l : Loc) :
    Relates (Quiet touched) QuietStop (readResolved sz o l) :=
  relates_readResolved (quiet_composes _) (quiet_reads _) sz o l

/-- A store to a location went through. -/
structure Stored (sz : Size) (l : Loc) (s t : State) : Prop where
  rest    : RestKept s t
  psw     : t.psw = s.psw
  trace   : t.tracePending = s.tracePending
  pending : t.busFaultPending = s.busFaultPending
  count   : t.busFaultCount = s.busFaultCount
  regs    : ∀ r, l ≠ .reg r → t.reg r = s.reg r
  mem     : ∀ p, (∀ a, l = .mem a → p ∉ s.storeBytes sz (accessAddr sz a)) → t.mem.read p = s.mem.read p

theorem storeMem_rest (s : State) (sz : Size) (a v : Word) : RestKept s (s.storeMem sz a v) := by
  constructor <;> simp

/-- All a write to memory can do. -/
theorem memWrite_outcome (sz : Size) (a v : Word) (s : State) :
    (∃ t, memWrite sz a v s = .error .busFailure t ∧ Stopped s t) ∨
    (∃ t, memWrite sz a v s = .ok () t ∧ Stored sz (.mem a) s t) := by
  rcases memWrite_cases sz a v s with ⟨-, k⟩ | ⟨-, -, k⟩ | ⟨-, -, k⟩ | ⟨w, -, -, k⟩
  · exact .inl ⟨_, k, stopped_failed s⟩
  · exact .inl ⟨_, k, ((quiet_reads fun _ => False).call s _).stopped (stopped_failed _)⟩
  · refine .inr ⟨_, k, ?_⟩
    have r := (quiet_reads fun _ => False).call s (.write (accessAddr sz a) sz (sz.trim v))
    refine ⟨r.rest.trans (storeMem_rest _ _ _ _), by simp, by simp, by simp, by simp, fun q _ => ?_, fun p hp => ?_⟩
    · simp [State.reg]
    · exact storeMem_read_other (s.afterCall _) _ _ _ (hp a rfl)
  · refine .inr ⟨_, k, ?_⟩
    have r := (quiet_reads fun _ => False).call s (.write (accessAddr sz a) sz (sz.trim v))
    exact ⟨r.rest, r.psw, r.trace, r.pending, r.count, fun q _ => r.regs q id, fun p _ => by rw [r.mem]⟩

theorem stored_setReg (sz : Size) (r : Reg) (v : Word) (s : State) : Stored sz (.reg r) s (s.setReg r v) :=
  ⟨by constructor <;> rfl, rfl, rfl, rfl, rfl, fun _ hq => reg_setReg_ne s v fun e => hq (by rw [e]),
    fun _ _ => rfl⟩

/-- All a write to a location can do. -/
theorem locWrite_outcome (sz : Size) (l : Loc) (v : Word) (s : State) :
    (∃ t, locWrite sz l v s = .error .busFailure t ∧ Stopped s t) ∨
    (∃ t, locWrite sz l v s = .ok () t ∧ Stored sz l s t) := by
  cases l with
  | reg r => cases sz <;> exact .inr ⟨_, rfl, stored_setReg _ _ _ _⟩
  | mem a => cases sz <;> exact memWrite_outcome _ _ _ _

/-- All the byte store of MOVB and MFPS can do. -/
theorem storeExtended_outcome (l : Loc) (v : Word) (s : State) :
    (∃ t, storeExtended l v s = .error .busFailure t ∧ Stopped s t) ∨
    (∃ t, storeExtended l v s = .ok () t ∧ Stored .byte l s t) := by
  cases l with
  | reg r => exact .inr ⟨_, rfl, stored_setReg _ _ _ _⟩
  | mem a => exact memWrite_outcome _ _ _ _

/-! ### From a rule to its instruction -/

/-- What a rule keeps when it ends with a value, before completion. -/
structure RuleFrame (written : Reg → Prop) (status : Nat → Prop) (stored : Nat → Prop) (s t : State) : Prop where
  rest    : RestKept s t
  trace   : t.tracePending = s.tracePending
  pending : t.busFaultPending = s.busFaultPending
  count   : t.busFaultCount = s.busFaultCount
  regs    : ∀ r, ¬ written r → t.reg r = s.reg r
  psw     : ∀ i, ¬ status i → t.psw.getLsbD i = s.psw.getLsbD i
  memory  : ∀ p, ¬ stored p → t.mem.read p = s.mem.read p

theorem State.Started.reg {s : State} (h : s.Started) {r : Reg} (hr : r ≠ .pc) : s.start.regs.get r = s.reg r := by
  rw [h.regs, Regs.get_set_ne _ _ hr]; rfl

theorem bankFollows_same {s : State} {h : Bool} (k : flagH s.psw = h) : s.bankFollows h = s := by
  simp [State.bankFollows, k]

/-- The abort of an instruction that a read or a store stopped. -/
theorem abort_rest {s u : State} (hs : s.Started) (h : Stopped s u) : RestKept s u.abort := by
  have e : u.abort = (({ u with regs := u.start.regs, psw := u.start.psw } : State).setReg .pc
      (abortPc u.params.faultPc u.start.regs.pc)) := by
    unfold State.abort State.restore
    rw [bankFollows_same]
    rw [h.rest.start, h.psw, hs.psw]
  rw [e]
  exact ⟨h.rest.params, h.rest.ppc, h.rest.ppsw, h.rest.waitState, h.rest.doubleFault, h.rest.eventLatch,
    h.rest.powerFailReq, h.rest.haltLine, h.rest.virq, h.rest.irqState, h.rest.bank, h.rest.chain, h.rest.irqAnswers,
    h.rest.inputs, h.rest.start⟩

theorem frame_of_abort {written : Reg → Prop} {status stored : Nat → Prop} (pc : written .pc) {s u : State}
    (hs : s.Started) (h : Stopped s u) : Frame written status stored s u.abort where
  rest := abort_rest hs h
  latches := ⟨.inr ⟨by simp [h.pending], by simp [h.count]⟩, .inl (by simp [h.trace])⟩
  regs r hr := by
    have hpc : r ≠ .pc := fun e => hr (e ▸ pc)
    simp only [State.reg, abort_regs, h.rest.start]
    rw [Regs.get_set_ne _ _ hpc, hs.reg hpc]; rfl
  psw i _ := by rw [abort_psw, h.rest.start, hs.psw]
  memory p _ := by rw [abort_mem, h.mem]

theorem frame_of_complete {written : Reg → Prop} {status stored : Nat → Prop} {s u : State}
    (h : RuleFrame written status stored s u) : Frame written status stored s (u.complete .ordinary) where
  rest := ⟨h.rest.params, h.rest.ppc, h.rest.ppsw, h.rest.waitState, h.rest.doubleFault, h.rest.eventLatch,
    h.rest.powerFailReq, h.rest.haltLine, h.rest.virq, h.rest.irqState, h.rest.bank, h.rest.chain, h.rest.irqAnswers,
    h.rest.inputs, h.rest.start⟩
  latches := by
    refine ⟨.inl ⟨h.pending, h.count⟩, ?_⟩
    change (u.tracePending || flagT u.start.psw) = _ ∨ _ ∧ (u.tracePending || flagT u.start.psw) = true
    rw [h.trace, h.rest.start]
    cases flagT s.start.psw <;> simp
  regs := h.regs
  psw := h.psw
  memory := h.memory

/-- An instruction's frame, from its rule's. -/
theorem frame_of_rule {written : Reg → Prop} {status stored : Nat → Prop} (pc : written .pc) {rule : Act Unit}
    {s t : State} (hs : s.Started)
    (stop : ∀ e u, rule s = .error e u → e = .busFailure ∧ Stopped s u)
    (ends : ∀ u, rule s = .ok () u → RuleFrame written status stored s u)
    (h : perform .ordinary rule s = .next t) : Frame written status stored s t := by
  unfold perform at h
  split at h
  · cases h; exact frame_of_complete (ends _ ‹_›)
  · cases h; exact frame_of_abort pc hs (stop _ _ ‹_›).2
  · cases h

/-- A store to the location a destination resolved to, and then a PSW write, have the frame of one destination. -/
theorem frame_of_store {sz : Size} {dst : Operand} {status : Nat → Prop} {s s1 s2 s3 : State} {l : Loc} {q : Word}
    (e1 : resolve sz dst s = .ok l s1) (q2 : Quiet (fun r => r = .pc ∨ stepsReg dst r) s s2)
    (hu : Stored sz l s2 s3) (hq : ∀ i, ¬ status i → q.getLsbD i = s.psw.getLsbD i) :
    RuleFrame (writesOne dst) status (storedAt sz (destAddr sz dst s) s) s (s3.setPsw q) := by
  have rest := q2.rest.trans hu.rest
  refine ⟨⟨rest.params, rest.ppc, rest.ppsw, rest.waitState, rest.doubleFault, rest.eventLatch,
    rest.powerFailReq, rest.haltLine, rest.virq, rest.irqState, rest.bank, rest.chain, rest.irqAnswers,
    rest.inputs, rest.start⟩, hu.trace.trans q2.trace, hu.pending.trans q2.pending, hu.count.trans q2.count,
    fun r hr => ?_, hq, fun p hp => ?_⟩
  · refine (hu.regs r ?_).trans (q2.regs r fun k => hr (k.elim .inl fun k => .inr (.inl k)))
    rintro rfl
    exact hr (.inr (.inr (resolve_reg e1).1))
  · refine (hu.mem p ?_).trans (by rw [q2.mem])
    rintro a rfl hm
    refine hp ⟨accessAddr sz a, by simp [destAddr, e1], ?_⟩
    have : s2.storeBytes sz (accessAddr sz a) = s.storeBytes sz (accessAddr sz a) := by
      have ph : ∀ x, s2.phys x = s.phys x := by
        intro x; simp [State.phys, State.windows, q2.rest.bank, q2.rest.params]
      cases sz <;> simp [State.storeBytes, ph]
    rwa [this] at hm

/-- What a rule's stops and ends keep. -/
structure RuleKeeps (written : Reg → Prop) (status stored : Nat → Prop) (rule : Act Unit) (s : State) : Prop where
  stop : ∀ e u, rule s = .error e u → e = .busFailure ∧ Stopped s u
  ends : ∀ u, rule s = .ok () u → RuleFrame written status stored s u

theorem RuleKeeps.frame {written : Reg → Prop} {status stored : Nat → Prop} {rule : Act Unit} {s t : State}
    (k : RuleKeeps written status stored rule s) (pc : written .pc) (hs : s.Started)
    (h : perform .ordinary rule s = .next t) : Frame written status stored s t :=
  frame_of_rule pc hs k.stop k.ends h

theorem RuleKeeps.of_error {written : Reg → Prop} {status stored : Nat → Prop} {rule : Act Unit} {s u : State}
    {e : Stop} (h : rule s = .error e u) (k : QuietStop e s u) : RuleKeeps written status stored rule s :=
  ⟨fun _ _ h' => (by rw [h] at h'; cases h'; exact k), fun _ h' => (by rw [h] at h'; cases h')⟩

theorem RuleKeeps.of_ok {written : Reg → Prop} {status stored : Nat → Prop} {rule : Act Unit} {s u : State}
    (h : rule s = .ok () u) (k : RuleFrame written status stored s u) : RuleKeeps written status stored rule s :=
  ⟨fun _ _ h' => (by rw [h] at h'; cases h'), fun _ h' => (by rw [h] at h'; cases h'; exact k)⟩

/-- The frame of a destination that is resolved, read and written. -/
theorem readModifyWrite_keeps {sz : Size} {dst : Operand} {f : Word → Word → Word × Word} {status : Nat → Prop}
    {s : State} (hf : ∀ x, Changes status fun p => (f x p).2) :
    RuleKeeps (writesOne dst) status (storedAt sz (destAddr sz dst s) s) (readModifyWrite sz dst f) s := by
  have hq := quiet_resolve (touched := fun r => r = .pc ∨ stepsReg dst r) (.inl rfl) sz dst fun r => .inr
  rcases e1 : resolve sz dst s with ⟨l, s1⟩ | ⟨e, s1⟩
  · have q1 := hq.ok e1
    rcases e2 : readResolved sz dst l s1 with ⟨x, s2⟩ | ⟨e, s2⟩
    · have q2 := q1.trans ((quiet_readResolved _ sz dst l).ok e2)
      rcases locWrite_outcome sz l (f x s2.psw).1 s2 with ⟨u, k, hu⟩ | ⟨u, k, hu⟩
      · refine .of_error (e := .busFailure) (u := u) ?_ ⟨rfl, q2.stopped hu⟩
        unfold readModifyWrite
        rw [act_bind_ok e1, act_bind_ok e2, bind_look, act_bind_error k]
      · refine .of_ok ?_ (frame_of_store e1 q2 hu (q := (f x s2.psw).2) fun i hi => ?_)
        · unfold readModifyWrite
          rw [act_bind_ok e1, act_bind_ok e2, bind_look, act_bind_ok k]
          rfl
        · rw [← q2.psw]; exact hf x s2.psw i hi
    · have k := (quiet_readResolved (fun _ => False) sz dst l).error e2
      refine .of_error (e := e) (u := s2) ?_ ⟨k.1, q1.stopped k.2⟩
      unfold readModifyWrite
      rw [act_bind_ok e1, act_bind_error e2]
  · refine .of_error (e := e) (u := s1) ?_ (hq.error e1)
    unfold readModifyWrite
    rw [act_bind_error e1]

/-- The frame of a destination that is resolved and written. -/
theorem writeOnly_keeps {sz : Size} {dst : Operand} {f : Word → Word × Word} {status : Nat → Prop}
    {s : State} (hf : Changes status fun p => (f p).2) :
    RuleKeeps (writesOne dst) status (storedAt sz (destAddr sz dst s) s) (writeOnly sz dst f) s := by
  have hq := quiet_resolve (touched := fun r => r = .pc ∨ stepsReg dst r) (.inl rfl) sz dst fun r => .inr
  rcases e1 : resolve sz dst s with ⟨l, s1⟩ | ⟨e, s1⟩
  · have q1 := hq.ok e1
    rcases locWrite_outcome sz l (f s1.psw).1 s1 with ⟨u, k, hu⟩ | ⟨u, k, hu⟩
    · refine .of_error (e := .busFailure) (u := u) ?_ ⟨rfl, q1.stopped hu⟩
      unfold writeOnly
      rw [act_bind_ok e1, bind_look, act_bind_error k]
    · refine .of_ok ?_ (frame_of_store e1 q1 hu (q := (f s1.psw).2) fun i hi => ?_)
      · unfold writeOnly
        rw [act_bind_ok e1, bind_look, act_bind_ok k]
        rfl
      · rw [← q1.psw]; exact hf s1.psw i hi
  · refine .of_error (e := e) (u := s1) ?_ (hq.error e1)
    unfold writeOnly
    rw [act_bind_error e1]

/-- The frame of the byte store of MOVB and MFPS. -/
theorem storeByte_keeps {dst : Operand} {v : Word} {s : State} :
    RuleKeeps (writesOne dst) flagsNZV (storedAt .byte (destAddr .byte dst s) s)
      (do
        let l ← resolve .byte dst
        storeExtended l v
        update fun s => s.setPsw (logicFlags .byte v s.psw)) s := by
  have hq := quiet_resolve (touched := fun r => r = .pc ∨ stepsReg dst r) (.inl rfl) .byte dst fun r => .inr
  rcases e1 : resolve .byte dst s with ⟨l, s1⟩ | ⟨e, s1⟩
  · have q1 := hq.ok e1
    rcases storeExtended_outcome l v s1 with ⟨u, k, hu⟩ | ⟨u, k, hu⟩
    · exact .of_error (e := .busFailure) (u := u) (by rw [act_bind_ok e1, act_bind_error k]) ⟨rfl, q1.stopped hu⟩
    · refine .of_ok ?_ (frame_of_store e1 q1 hu (q := logicFlags .byte v u.psw) fun i hi => ?_)
      · rw [act_bind_ok e1, act_bind_ok k]; rfl
      · rw [hu.psw, ← q1.psw]; exact changes_logicFlags _ _ _ i hi
  · exact .of_error (e := e) (u := s1) (by rw [act_bind_error e1]) (hq.error e1)

/-- A source read before a rule with the frame of one destination. -/
theorem keeps_after_source {sz : Size} {src dst : Operand} {rest : Word → Act Unit} {status : Nat → Prop} {s : State}
    (k : ∀ v t, RuleKeeps (writesOne dst) status (storedAt sz (destAddr sz dst t) t) (rest v) t) :
    RuleKeeps (writesTwo src dst) status (storedAt sz (destAddrAfter sz src dst s) s)
      (readOperand sz src >>= rest) s := by
  have hq := quiet_readOperand (touched := fun r => r = .pc ∨ stepsReg src r) (.inl rfl) sz src fun r => .inr
  rcases e1 : readOperand sz src s with ⟨v, t⟩ | ⟨e, t⟩
  · have q := hq.ok e1
    have kt := k v t
    have run : (readOperand sz src >>= rest) s = rest v t := act_bind_ok e1
    refine ⟨fun e u h => ?_, fun u h => ?_⟩
    · rw [run] at h
      exact ⟨(kt.stop e u h).1, q.stopped (kt.stop e u h).2⟩
    · rw [run] at h
      have r := kt.ends u h
      refine ⟨q.rest.trans r.rest, r.trace.trans q.trace, r.pending.trans q.pending, r.count.trans q.count,
        fun a ha => ?_, fun i hi => (r.psw i hi).trans (by rw [q.psw]), fun p hp => ?_⟩
      · refine (r.regs a fun w => ha ?_).trans (q.regs a fun w => ha ?_)
        · rcases w with w | w | w
          · exact .inl w
          · exact .inr (.inr (.inl w))
          · exact .inr (.inr (.inr w))
        · exact w.elim .inl fun w => .inr (.inl w)
      · refine (r.memory p ?_).trans (by rw [q.mem])
        rintro ⟨a, ha, hm⟩
        refine hp ⟨a, by simpa [destAddrAfter, e1] using ha, ?_⟩
        have ph : ∀ x, t.phys x = s.phys x := by
          intro x; simp [State.phys, State.windows, q.rest.bank, q.rest.params]
        cases sz <;> simpa [State.storeBytes, ph] using hm
  · exact .of_error (e := e) (u := t) (act_bind_error e1) (hq.error e1)

/-- The frame of an operand that is only read. -/
theorem readOnly_keeps {sz : Size} {o : Operand} {f : Word → Word → Word} {status : Nat → Prop} {s : State}
    (hf : ∀ x, Changes status (f x)) :
    RuleKeeps (fun r => r = .pc ∨ stepsReg o r) status (fun _ => False) (readOnly sz o f) s := by
  have hq := quiet_readOperand (touched := fun r => r = .pc ∨ stepsReg o r) (.inl rfl) sz o fun r => .inr
  rcases e1 : readOperand sz o s with ⟨x, t⟩ | ⟨e, t⟩
  · have q := hq.ok e1
    refine .of_ok (u := t.setPsw (f x t.psw)) (by unfold readOnly; rw [act_bind_ok e1]; rfl) ?_
    refine ⟨⟨q.rest.params, q.rest.ppc, q.rest.ppsw, q.rest.waitState, q.rest.doubleFault, q.rest.eventLatch,
      q.rest.powerFailReq, q.rest.haltLine, q.rest.virq, q.rest.irqState, q.rest.bank, q.rest.chain,
      q.rest.irqAnswers, q.rest.inputs, q.rest.start⟩, q.trace, q.pending, q.count, q.regs, fun i hi => ?_,
      fun p _ => by rw [setPsw_mem, q.mem]⟩
    rw [setPsw_psw, ← q.psw]; exact hf x t.psw i hi
  · exact .of_error (e := e) (u := t) (by unfold readOnly; rw [act_bind_error e1]) (hq.error e1)

/-- The frame of two operands that are only read. -/
theorem readBoth_keeps {sz : Size} {src dst : Operand} {f : Word → Word → Word → Word} {status : Nat → Prop}
    {s : State} (hf : ∀ v x, Changes status (f v x)) :
    RuleKeeps (fun r => r = .pc ∨ stepsReg src r ∨ stepsReg dst r) status (fun _ => False)
      (readBoth sz src dst f) s := by
  have hq := quiet_readOperand (touched := fun r => r = .pc ∨ stepsReg src r) (.inl rfl) sz src fun r => .inr
  rcases e1 : readOperand sz src s with ⟨v, t⟩ | ⟨e, t⟩
  · have q := hq.ok e1
    have kt := readOnly_keeps (sz := sz) (o := dst) (s := t) (hf v)
    have run : readBoth sz src dst f s = readOnly sz dst (f v) t := act_bind_ok e1
    refine ⟨fun e u h => ?_, fun u h => ?_⟩
    · rw [run] at h
      exact ⟨(kt.stop e u h).1, q.stopped (kt.stop e u h).2⟩
    · rw [run] at h
      have r := kt.ends u h
      refine ⟨q.rest.trans r.rest, r.trace.trans q.trace, r.pending.trans q.pending, r.count.trans q.count,
        fun a ha => ?_, fun i hi => (r.psw i hi).trans (by rw [q.psw]),
        fun p hp => (r.memory p hp).trans (by rw [q.mem])⟩
      refine (r.regs a fun w => ha ?_).trans (q.regs a fun w => ha ?_)
      · exact w.elim .inl fun w => .inr (.inr w)
      · exact w.elim .inl fun w => .inr (.inl w)
  · exact .of_error (e := e) (u := t) (act_bind_error e1) (hq.error e1)

/-- All a read can do. -/
theorem memRead_outcome (sz : Size) (a : Word) (s : State) :
    (∃ t, memRead sz a s = .error .busFailure t ∧ Stopped s t) ∨
    (∃ v t, memRead sz a s = .ok v t ∧ Quiet (fun _ => False) s t) := by
  have := relates_memRead (quiet_composes fun _ => False) (quiet_reads _) sz a
  rcases e : memRead sz a s with ⟨v, t⟩ | ⟨e', t⟩
  · exact .inr ⟨v, t, rfl, this.ok e⟩
  · have := this.error e; obtain ⟨rfl, k⟩ := this
    exact .inl ⟨t, rfl, k⟩

theorem quiet_frame {W : Reg → Prop} {st mm : Nat → Prop} {s t : State} (h : Quiet W s t) : RuleFrame W st mm s t :=
  ⟨h.rest, h.trace, h.pending, h.count, h.regs, fun i _ => by rw [h.psw], fun p _ => by rw [h.mem]⟩

theorem quiet_pop {W : Reg → Prop} (hsp : W .sp) : Relates (Quiet W) QuietStop pop :=
  relates_pop (quiet_composes _) (quiet_reads _) (quiet_setReg hsp)

/-- The frame of a rule that only reads and writes registers. -/
theorem relates_keeps {W : Reg → Prop} {st mm : Nat → Prop} {rule : Act Unit}
    (h : Relates (Quiet W) QuietStop rule) (s : State) : RuleKeeps W st mm rule s := ⟨fun _ _ k => h.error k, fun _ k => quiet_frame (h.ok k)⟩

end Sys2Proof.Machine
end

