-- ==== Sys2Proof/Laws/Invariant.lean ====
section
/-! SUPPORT. The invariant of a run is kept by every operation an instruction or a sequence is made of, and by the end
of an instruction. -/

namespace Sys2Proof.Machine

/-- The first bit that no PSW value of a variant has. -/
def pswTop : Variant → Nat
  | .base => 8
  | .extended => 9

theorem getLsbD_pswImpl (v : Variant) (i : Nat) : (pswImpl v).getLsbD i = decide (i < pswTop v) := by
  by_cases h : i < 16
  · cases v <;> interval_cases i <;> rfl
  · have : ¬ i < pswTop v := by cases v <;> simp only [pswTop] <;> omega
    rw [BitVec.getLsbD_of_ge _ _ (by omega), decide_eq_false this]

/-- A PSW value fits its variant exactly when every bit from `pswTop` up is 0. -/
theorem pswFits_iff {v : Variant} {p : Word} :
    pswFits v p = true ↔ ∀ i, pswTop v ≤ i → p.getLsbD i = false := by
  unfold pswFits
  rw [beq_iff_eq]
  constructor
  · intro h i hi
    have bit := congrArg (BitVec.getLsbD · i) h
    simp only [BitVec.getLsbD_and, BitVec.getLsbD_not, getLsbD_pswImpl, decide_eq_false (Nat.not_lt.mpr hi),
      Bool.not_false, Bool.and_true] at bit
    by_cases hw : i < 16
    · simpa [hw] using bit
    · exact BitVec.getLsbD_of_ge _ _ (by omega)
  · intro h
    apply BitVec.eq_of_getLsbD_eq
    intro i hi
    simp only [BitVec.getLsbD_and, BitVec.getLsbD_not, getLsbD_pswImpl]
    by_cases k : i < pswTop v
    · simp [k]
    · simp [h i (by omega)]

theorem pswFits_and (v : Variant) (p : Word) : pswFits v (p &&& pswImpl v) = true := by
  rw [pswFits_iff]
  intro i hi
  simp [getLsbD_pswImpl, Nat.not_lt.mpr hi]

theorem pswFits_eq {v : Variant} {p : Word} (h : pswFits v p = true) : p &&& pswImpl v = p := by
  rw [pswFits_iff] at h
  apply BitVec.eq_of_getLsbD_eq
  intro i _
  rw [BitVec.getLsbD_and, getLsbD_pswImpl]
  by_cases k : i < pswTop v
  · simp [k]
  · simp [h i (by omega)]

/-- The invariant sees these fields alone. -/
theorem State.Inv.of_eq {s t : State} (h : s.Inv) (params : t.params = s.params) (mem : t.mem = s.mem)
    (psw : t.psw = s.psw) (ppsw : t.ppsw = s.ppsw) (start : t.start = s.start) (bank : t.bank = s.bank) : t.Inv where
  memory := by rw [mem]; exact h.memory
  psw := by rw [psw, params]; exact h.psw
  ppsw := by rw [ppsw, params]; exact h.ppsw
  start := by rw [start, params]; exact h.start
  bank := by unfold State.extended; rw [bank, psw, params]; exact h.bank

theorem State.Inv.setReg {s : State} (h : s.Inv) (r : Reg) (v : Word) : (s.setReg r v).Inv :=
  h.of_eq rfl rfl rfl rfl rfl rfl

theorem State.Inv.storeMem {s : State} (h : s.Inv) (sz : Size) (a v : Word) : (s.storeMem sz a v).Inv where
  memory := storeMem_wf h.memory sz a v
  psw := by simpa using h.psw
  ppsw := by simpa using h.ppsw
  start := by simpa using h.start
  bank := by simpa [State.extended] using h.bank

/-- A PSW write that keeps the bits from 8 up. -/
theorem State.Inv.setPsw {s : State} (h : s.Inv) {q : Word} (k : ∀ i, 8 ≤ i → q.getLsbD i = s.psw.getLsbD i) :
    (s.setPsw q).Inv where
  memory := h.memory
  psw := by
    rw [setPsw_params, setPsw_psw, pswFits_iff]
    intro i hi
    have : 8 ≤ i := by
      cases hv : s.params.variant <;> simp [hv, pswTop] at hi <;> omega
    rw [k i this]
    exact pswFits_iff.mp h.psw i hi
  ppsw := h.ppsw
  start := h.start
  bank := by
    have : flagH q = flagH s.psw := k 8 (by omega)
    simp only [State.extended, setPsw_params, setPsw_psw, setPsw_bank, this]
    exact h.bank

/-- A new PSW of implemented bits, with the bank set to follow it. -/
theorem State.Inv.bankFollows {s : State} (h : s.Inv) (p : Word) (fits : pswFits s.params.variant p = true) :
    ((s.setPsw p).bankFollows (flagH s.psw)).Inv where
  memory := by simpa using h.memory
  psw := by simpa using fits
  ppsw := by simpa using h.ppsw
  start := by simpa using h.start
  bank := by
    unfold State.bankFollows
    have b := h.bank
    simp only [State.extended] at b ⊢
    cases he : s.params.variant == .extended <;> rw [he] at b <;> cases hn : flagH p <;> cases ho : flagH s.psw <;>
      rw [ho] at b <;> simp [he, hn, b]

theorem State.Inv.trapReturn {s : State} (h : s.Inv) (pc p : Word) :
    (((s.setReg .pc pc).writePsw p).bankFollows (flagH s.psw)).Inv :=
  (h.setReg .pc pc).bankFollows _ (pswFits_and _ _)

theorem State.Inv.restore {s : State} (h : s.Inv) (snap : Snapshot) (fits : pswFits s.params.variant snap.psw = true) :
    (s.restore snap).Inv := by
  have := State.Inv.bankFollows (s := { s with regs := snap.regs }) (h.of_eq rfl rfl rfl rfl rfl rfl) snap.psw fits
  exact this

theorem State.Inv.abort {s : State} (h : s.Inv) : s.abort.Inv := (h.restore _ h.start).setReg _ _

theorem State.Inv.abortFetch {s : State} (h : s.Inv) : s.abortFetch.Inv := h.restore _ h.start

theorem State.Inv.complete {s : State} (h : s.Inv) (how : Completion) : (s.complete how).Inv :=
  h.of_eq rfl rfl rfl rfl rfl rfl

/-- After the mode change of a trap, H is 0 where the variant has it. -/
theorem State.Inv.leavePrivileged {s : State} (h : s.Inv) :
    s.leavePrivileged.Inv ∧ (s.extended && flagH s.leavePrivileged.psw) = false := by
  unfold State.leavePrivileged
  cases he : s.extended
  · exact ⟨h, rfl⟩
  · have hf : flagH (withH false s.psw) = false := by show (withH false s.psw).getLsbD 8 = false; rw [getLsbD_withH]; rfl
    refine ⟨⟨h.memory, ?_, h.ppsw, h.start, ?_⟩, ?_⟩
    · have := h.psw
      rw [pswFits_iff] at this
      simp only [if_true, bankSwitch_params, setPsw_params, bankSwitch_psw, setPsw_psw]
      rw [pswFits_iff]
      intro i hi
      rw [getLsbD_withH]
      split
      · rfl
      · exact this i hi
    · simp [State.extended, hf, bankOf]
    · simp [hf]

theorem State.Inv.enterHalt {s : State} (h : s.Inv) (he : s.extended = true) :
    s.enterHalt.Inv ∧ flagH s.enterHalt.psw = true := by
  have hv : s.params.variant = .extended := by simpa [State.extended] using he
  have hf : flagH (withH true s.psw) = true := by simp [flagH, Config.privBit]
  refine ⟨⟨h.memory, ?_, h.ppsw, h.start, ?_⟩, hf⟩
  · have := h.psw
    rw [pswFits_iff] at this
    change pswFits s.params.variant (withH true s.psw) = true
    rw [pswFits_iff]
    intro i hi
    rw [getLsbD_withH, if_neg (by rw [hv] at hi; simp [pswTop] at hi; omega)]
    exact this i hi
  · simp [State.enterHalt, State.extended, hv, hf, bankOf]

/-- The install of a trap, from a state with H = 0 where the variant has it. -/
theorem State.Inv.install {s : State} (h : s.Inv) (h0 : (s.extended && flagH s.psw) = false) (pc p : Word) :
    (s.install pc p).Inv := by
  have b := h.bank
  rw [h0] at b
  by_cases hc : (s.extended && flagH (p &&& pswImpl s.params.variant)) = true
  · rw [show s.install pc p = { ((s.setReg .pc pc).writePsw p).bankSwitch .priv with waitState := false } from
      congrArg (fun u : State => { u with waitState := false }) (if_pos hc)]
    exact ⟨h.memory, pswFits_and _ _, h.ppsw, h.start, (congrArg bankOf hc).symm⟩
  · rw [show s.install pc p = { (s.setReg .pc pc).writePsw p with waitState := false } from
      congrArg (fun u : State => { u with waitState := false }) (if_neg hc)]
    exact ⟨h.memory, pswFits_and _ _, h.ppsw, h.start, b.trans (congrArg bankOf (Bool.eq_false_iff.mpr hc)).symm⟩

/-- The install of the halt path, from a state with H = 1. -/
theorem State.Inv.installHalt {s : State} (h : s.Inv) (he : s.extended = true) (h1 : flagH s.psw = true)
    (pc p : Word) : (s.installHalt pc p).Inv := by
  have hv : s.params.variant = .extended := by simpa [State.extended] using he
  have b := h.bank
  rw [he, h1] at b
  have hf : ∀ q, flagH (withH true q) = true := by simp [flagH, Config.privBit]
  refine ⟨h.memory, ?_, h.ppsw, h.start, ?_⟩
  · change pswFits s.params.variant (withH true (p &&& pswImpl s.params.variant)) = true
    have := pswFits_and s.params.variant p
    rw [pswFits_iff] at this ⊢
    intro i hi
    rw [getLsbD_withH, if_neg (by rw [hv] at hi; simp [pswTop] at hi; omega)]
    exact this i hi
  · simpa [State.installHalt, State.extended, hv, hf, bankOf] using b

/-! ### Actions that keep the invariant -/

/-- The invariant is carried along, parameters and S0 do not change. -/
structure Carries (s t : State) : Prop where
  inv    : s.Inv → t.Inv
  params : t.params = s.params

/-- A stop carries it too. -/
def CarriesStop (_ : Stop) (s t : State) : Prop := Carries s t

theorem Carries.refl (s : State) : Carries s s := ⟨id, rfl⟩

theorem Carries.trans {s t u : State} (h : Carries s t) (k : Carries t u) : Carries s u :=
  ⟨fun i => k.inv (h.inv i), k.params.trans h.params⟩

theorem carries_composes : Composes Carries CarriesStop := ⟨Carries.refl, Carries.trans, fun h k => h.trans k⟩

theorem carries_access : AccessRelated Carries CarriesStop where
  call _ _ := ⟨fun h => h.of_eq rfl rfl rfl rfl rfl rfl, rfl⟩
  failed _ := ⟨fun h => h.of_eq rfl rfl rfl rfl rfl rfl, rfl⟩
  store s sz a v := ⟨fun h => h.storeMem sz a v, by simp⟩

theorem carries_setReg (r : Reg) (s : State) (v : Word) : Carries s (s.setReg r v) := ⟨fun h => h.setReg r v, rfl⟩

theorem carries_setPsw {f : Word → Word} {status : Nat → Prop} (h : Changes status f) (k : ∀ i, status i → i < 8)
    (s : State) : Carries s (s.setPsw (f s.psw)) :=
  ⟨fun inv => inv.setPsw fun i hi => h s.psw i fun hs => absurd (k i hs) (by omega), rfl⟩

theorem carries_resolve (sz : Size) (o : Operand) : Relates Carries CarriesStop (resolve sz o) :=
  relates_resolve carries_composes carries_access.toReadRelated (carries_setReg .pc) sz o fun r _ => carries_setReg r

theorem carries_readOperand (sz : Size) (o : Operand) : Relates Carries CarriesStop (readOperand sz o) :=
  relates_readOperand carries_composes carries_access.toReadRelated (carries_setReg .pc) sz o fun r _ =>
    carries_setReg r

theorem carries_readResolved (sz : Size) (o : Operand) (l : Loc) : Relates Carries CarriesStop (readResolved sz o l) :=
  relates_readResolved carries_composes carries_access.toReadRelated sz o l

theorem carries_locWrite (sz : Size) (l : Loc) (v : Word) : Relates Carries CarriesStop (locWrite sz l v) :=
  relates_locWrite carries_composes carries_access sz l v fun r _ => carries_setReg r

theorem carries_storeExtended (l : Loc) (v : Word) : Relates Carries CarriesStop (storeExtended l v) :=
  relates_storeExtended carries_composes carries_access l v fun r _ => carries_setReg r

theorem carries_push (v : Word) : Relates Carries CarriesStop (push v) :=
  relates_push carries_composes carries_access (carries_setReg .sp) v

theorem carries_pop : Relates Carries CarriesStop pop :=
  relates_pop carries_composes carries_access.toReadRelated (carries_setReg .sp)

theorem carries_fetchWord : Relates Carries CarriesStop fetchWord :=
  relates_fetchWord carries_composes carries_access.toReadRelated (carries_setReg .pc)

/-! ### Exceptions -/

/-- The relation that holds over the part of an exception between its mode change and its install. -/
def CarriesPsw (s t : State) : Prop := Carries s t ∧ t.psw = s.psw

theorem carriesPsw_composes : Composes CarriesPsw CarriesStop :=
  ⟨fun s => ⟨Carries.refl s, rfl⟩, fun h k => ⟨h.1.trans k.1, k.2.trans h.2⟩, fun h k => h.1.trans k⟩

theorem carriesPsw_access : AccessRelated CarriesPsw CarriesStop where
  call s c := ⟨carries_access.call s c, rfl⟩
  failed s := carries_access.failed s
  store s sz a v := ⟨carries_access.store s sz a v, by simp⟩

theorem carriesPsw_setReg (r : Reg) (s : State) (v : Word) : CarriesPsw s (s.setReg r v) := ⟨carries_setReg r s v, rfl⟩

theorem carries_trapSequence (vec : Word) {middle : State → State} (mid : ∀ s, CarriesPsw s (middle s)) :
    Relates Carries CarriesStop (trapSequence vec middle) := by
  have body := relates_trapBody carriesPsw_composes carriesPsw_access (carriesPsw_setReg .sp) vec mid
  have params (s : State) : s.leavePrivileged.params = s.params := by simp
  constructor
  · intro s _ t h
    rw [trapSequence_run] at h
    split at h
    · rcases hb : trapBody vec middle s.leavePrivileged with ⟨p, u⟩ | ⟨e, u⟩ <;> rw [hb] at h <;> cases h
      obtain ⟨k, kp⟩ := body.ok hb
      refine ⟨fun i => (k.inv i.leavePrivileged.1).install ?_ _ _, by simp [k.params]⟩
      have := i.leavePrivileged.2
      rw [kp]
      simpa [State.extended, k.params] using this
    · cases h
  · intro s e t h
    rw [trapSequence_run] at h
    split at h
    · rcases hb : trapBody vec middle s.leavePrivileged with ⟨p, u⟩ | ⟨e, u⟩ <;> rw [hb] at h <;> cases h
      have k := body.error hb
      exact ⟨fun i => k.inv i.leavePrivileged.1, k.params.trans (params s)⟩
    · cases h; exact Carries.refl _

theorem carries_trap (vec : Word) : Relates Carries CarriesStop (trap vec) :=
  carries_trapSequence vec carriesPsw_composes.refl

/-- The halt path of the EXTENDED variant. -/
theorem carries_haltPath {s : State} (he : s.extended = true) :
    (∀ a t, haltPath s = .ok a t → Carries s t) ∧ (∀ e t, haltPath s = .error e t → Carries s t) := by
  have body := relates_haltBody carriesPsw_composes carriesPsw_access (carriesPsw_setReg .sp)
    s.params.haltVector s.psw
  constructor
  · intro _ t h
    rw [haltPath_run] at h
    split at h
    · rcases hb : haltBody s.params.haltVector s.psw s.enterHalt with ⟨p, u⟩ | ⟨e, u⟩ <;> rw [hb] at h <;> cases h
      obtain ⟨k, kp⟩ := body.ok hb
      have params : u.params = s.params := k.params
      refine ⟨fun i => (k.inv (i.enterHalt he).1).installHalt ?_ ?_ _ _, params⟩
      · simpa [State.extended, params] using he
      · rw [kp]; exact (i.enterHalt he).2
    · cases h
  · intro e t h
    rw [haltPath_run] at h
    split at h
    · rcases hb : haltBody s.params.haltVector s.psw s.enterHalt with ⟨p, u⟩ | ⟨e, u⟩ <;> rw [hb] at h <;> cases h
      have k := body.error hb
      exact ⟨fun i => k.inv (i.enterHalt he).1, k.params⟩
    · cases h; exact Carries.refl _

theorem carries_trapReturn : Relates Carries CarriesStop trapReturn := by
  unfold trapReturn
  refine relates_bind carries_composes carries_pop fun pc => relates_bind carries_composes carries_pop fun p => ?_
  exact relates_update fun s => ⟨fun i => i.trapReturn pc p, by simp⟩

/-- An instruction whose rule keeps the invariant keeps it. -/
theorem perform_carries {how : Completion} {rule : Act Unit} {s t : State}
    (ok : ∀ a u, rule s = .ok a u → Carries s u) (stop : ∀ e u, rule s = .error e u → Carries s u)
    (h : perform how rule s = .next t) (i : s.Inv) : t.Inv ∧ t.params = s.params := by
  unfold perform at h
  split at h
  · cases h; have k := ok _ _ ‹_›; exact ⟨(k.inv i).complete how, k.params⟩
  · cases h; have k := stop _ _ ‹_›; exact ⟨(k.inv i).abort, by simp [k.params]⟩
  · cases h

end Sys2Proof.Machine
end

