-- ==== Sys2Proof/Laws/Instructions.lean ====
section
/-! SUPPORT. Every instruction at once: `exec` is `perform` of a rule, and each rule respects every relation that its
parts respect. -/

namespace Sys2Proof.Machine

/-- What relations need so that every rule respects them: `P` while a rule runs, `E` at its end, `Q` where it is
stopped. `special` says whether MTPS, traps and trap returns are asked about. -/
structure Related (P E : State → State → Prop) (Q : Stop → State → State → Prop) (special : Prop) : Prop where
  composes   : Composes P Q
  access     : AccessRelated P Q
  setReg     : ∀ r s v, P s (s.setReg r v)
  same       : ∀ s, E s s
  ends       : ∀ {s t u}, P s t → E t u → E s u
  flags      : ∀ s q, (∀ i, 4 ≤ i → q.getLsbD i = s.psw.getLsbD i) → E s (s.setPsw q)
  operator   : ∀ s q, (∀ i, 4 ≤ i → q.getLsbD i = s.psw.getLsbD i) → E s (s.writePsw q)
  wait       : ∀ s : State, E s { s with waitState := true }
  busReset   : ∀ s : State, E s (s.record .busReset)
  mtps       : special → ∀ s q, (∀ i, 8 ≤ i → q.getLsbD i = s.psw.getLsbD i) → E s (s.setPsw q)
  trap       : special → ∀ vec : Word, vec &&& 3 = 0 → Relates E Q (trap vec)
  trapReturn : special → Relates E Q trapReturn

section
variable {P E : State → State → Prop} {Q : Stop → State → State → Prop} {special : Prop} {α β : Type}

/-- A part before the end of a rule. -/
theorem Related.bind (k : Related P E Q special) {x : Act α} {f : α → Act β} (hx : Relates P Q x)
    (hf : ∀ a, Relates E Q (f a)) : Relates E Q (x >>= f) where
  ok h := by
    obtain ⟨a, t, h1, h2⟩ := act_bind_inv h
    exact k.ends (hx.ok h1) ((hf a).ok h2)
  error h := by
    rw [act_bind] at h
    split at h
    · exact k.composes.stop (hx.ok ‹_›) ((hf _).error h)
    · cases h; exact hx.error ‹_›

theorem Related.last (k : Related P E Q special) {x : Act α} (hx : Relates P Q x) : Relates E Q x where
  ok h := k.ends (hx.ok h) (k.same _)
  error h := hx.error h

theorem Related.resolve (k : Related P E Q special) (sz : Size) (o : Operand) : Relates P Q (resolve sz o) :=
  relates_resolve k.composes k.access.toReadRelated (k.setReg .pc) sz o fun r _ => k.setReg r

theorem Related.readOperand (k : Related P E Q special) (sz : Size) (o : Operand) : Relates P Q (readOperand sz o) :=
  relates_readOperand k.composes k.access.toReadRelated (k.setReg .pc) sz o fun r _ => k.setReg r

theorem Related.readResolved (k : Related P E Q special) (sz : Size) (o : Operand) (l : Loc) :
    Relates P Q (readResolved sz o l) :=
  relates_readResolved k.composes k.access.toReadRelated sz o l

theorem Related.locWrite (k : Related P E Q special) (sz : Size) (l : Loc) (v : Word) :
    Relates P Q (locWrite sz l v) :=
  relates_locWrite k.composes k.access sz l v fun r _ => k.setReg r

/-- The bits that a flag computation keeps. -/
theorem Changes.upper {status : Nat → Prop} {f : Word → Word} (h : Changes status f) (hs : ∀ i, status i → i < 4)
    (p : Word) (i : Nat) (hi : 4 ≤ i) : (f p).getLsbD i = p.getLsbD i :=
  h p i fun k => absurd (hs i k) (by omega)

theorem Related.writeFlags (k : Related P E Q special) {f : Word → Word} {status : Nat → Prop} (h : Changes status f)
    (hs : ∀ i, status i → i < 4) : Relates E Q (update fun s => s.setPsw (f s.psw)) :=
  relates_update fun s => k.flags s _ (h.upper hs s.psw)

/-- The PSW write after a store: the flags come from the PSW before it. -/
theorem Related.storeThenFlags (k : Related P E Q special) {sz : Size} {l : Loc} {f : Word → Word × Word}
    {status : Nat → Prop} (h : Changes status fun p => (f p).2) (hs : ∀ i, status i → i < 4) :
    Relates E Q (look State.psw >>= fun p => Machine.locWrite sz l (f p).1 >>= fun _ =>
      update fun s => s.setPsw (f p).2) := by
  have store (s : State) : (∃ t, Machine.locWrite sz l (f s.psw).1 s = .error .busFailure t) ∨
      (∃ t, Machine.locWrite sz l (f s.psw).1 s = .ok () t ∧ t.psw = s.psw) := by
    rcases locWrite_outcome sz l (f s.psw).1 s with ⟨t, e, -⟩ | ⟨t, e, st⟩
    · exact .inl ⟨t, e⟩
    · exact .inr ⟨t, e, st.psw⟩
  constructor
  · intro s a u e
    rw [bind_look] at e
    rcases store s with ⟨t, w⟩ | ⟨t, w, hp⟩
    · rw [act_bind_error w] at e; cases e
    · rw [act_bind_ok w] at e; cases e
      refine k.ends ((k.locWrite sz l _).ok w) (k.flags t _ fun i hi => ?_)
      rw [hp]; exact h.upper hs s.psw i hi
  · intro s e' u e
    rw [bind_look] at e
    rcases store s with ⟨t, w⟩ | ⟨t, w, hp⟩
    · rw [act_bind_error w] at e; cases e; exact (k.locWrite sz l _).error w
    · rw [act_bind_ok w] at e; cases e

theorem Related.readModifyWrite (k : Related P E Q special) {sz : Size} {o : Operand} {f : Word → Word → Word × Word}
    {status : Nat → Prop} (h : ∀ x, Changes status fun p => (f x p).2) (hs : ∀ i, status i → i < 4) :
    Relates E Q (readModifyWrite sz o f) :=
  k.bind (k.resolve sz o) fun l => k.bind (k.readResolved sz o l) fun x => k.storeThenFlags (h x) hs

theorem Related.writeOnly (k : Related P E Q special) {sz : Size} {o : Operand} {f : Word → Word × Word}
    {status : Nat → Prop} (h : Changes status fun p => (f p).2) (hs : ∀ i, status i → i < 4) :
    Relates E Q (writeOnly sz o f) :=
  k.bind (k.resolve sz o) fun _ => k.storeThenFlags h hs

theorem Related.readOnly (k : Related P E Q special) {sz : Size} {o : Operand} {f : Word → Word → Word}
    {status : Nat → Prop} (h : ∀ x, Changes status (f x)) (hs : ∀ i, status i → i < 4) :
    Relates E Q (readOnly sz o f) :=
  k.bind (k.readOperand sz o) fun x => k.writeFlags (h x) hs

theorem Related.combine (k : Related P E Q special) {sz : Size} {src dst : Operand}
    {f : Word → Word → Word → Word × Word} {status : Nat → Prop} (h : ∀ v x, Changes status fun p => (f v x p).2)
    (hs : ∀ i, status i → i < 4) : Relates E Q (combine sz src dst f) :=
  k.bind (k.readOperand sz src) fun v => k.readModifyWrite (h v) hs

theorem Related.readBoth (k : Related P E Q special) {sz : Size} {src dst : Operand}
    {f : Word → Word → Word → Word} {status : Nat → Prop} (h : ∀ v x, Changes status (f v x))
    (hs : ∀ i, status i → i < 4) : Relates E Q (readBoth sz src dst f) :=
  k.bind (k.readOperand sz src) fun v => k.readOnly (h v) hs

theorem Related.storeByte (k : Related P E Q special) (o : Operand) (v : Word) :
    Relates E Q (do
      let l ← Machine.resolve .byte o
      storeExtended l v
      update fun s => s.setPsw (logicFlags .byte v s.psw)) :=
  k.bind (k.resolve .byte o) fun l =>
    k.bind (relates_storeExtended k.composes k.access l v fun r _ => k.setReg r) fun _ =>
      k.writeFlags (changes_logicFlags .byte v) fun _ h => h.2

theorem Related.branchIf (k : Related P E Q special) (cond : Word → Bool) (off : BitVec 8) :
    Relates E Q (branchIf cond off) :=
  k.last (relates_update fun s => by
    split
    · exact k.setReg _ _ _
    · exact k.composes.refl _)

theorem Related.pop (k : Related P E Q special) : Relates P Q pop :=
  relates_pop k.composes k.access.toReadRelated (k.setReg .sp)

/-- JMP and JSR: a memory destination is used, a register destination traps. -/
theorem Related.transfer (k : Related P E Q special) (dst : Operand) (hs : dst.mode = .register → special)
    {go : Word → Act Unit} (hgo : ∀ a, Relates P Q (go a)) :
    Relates E Q (Machine.resolve .word dst >>= fun l => match l with
      | .reg _ => reservedTrap
      | .mem a => go a) := by
  have end_ {l : Loc} {s u : State} (h : Machine.resolve .word dst s = .ok l u) :
      Relates E Q (match l with
        | .reg _ => reservedTrap
        | .mem a => go a) := by
    cases l with
    | reg q => exact k.trap (hs (by rw [(resolve_reg h).1])) _ (by decide)
    | mem a => exact k.last (hgo a)
  constructor
  · intro s a t h
    obtain ⟨l, u, h1, h2⟩ := act_bind_inv h
    exact k.ends ((k.resolve .word dst).ok h1) ((end_ h1).ok h2)
  · intro s e t h
    rcases h1 : Machine.resolve .word dst s with ⟨l, u⟩ | ⟨e', u⟩
    · rw [act_bind_ok h1] at h
      exact k.composes.stop ((k.resolve .word dst).ok h1) ((end_ h1).error h)
    · rw [act_bind_error h1] at h
      cases h
      exact (k.resolve .word dst).error h1

theorem getLsbD_mask4 (mask : BitVec 4) {i : Nat} (hi : 4 ≤ i) : (mask.zeroExtend 16).getLsbD i = false := by
  rw [BitVec.zeroExtend, BitVec.getLsbD_setWidth, BitVec.getLsbD_of_ge _ _ hi, Bool.and_false]

theorem clearFlags_upper (mask : BitVec 4) (p : Word) (i : Nat) (hi : 4 ≤ i) :
    (clearFlags mask p).getLsbD i = p.getLsbD i := by
  unfold clearFlags
  rw [BitVec.getLsbD_and, BitVec.getLsbD_not, getLsbD_mask4 mask hi]
  by_cases h : i < 16
  · simp [h]
  · simp [BitVec.getLsbD_of_ge p i (by omega)]

theorem setFlags_upper (mask : BitVec 4) (p : Word) (i : Nat) (hi : 4 ≤ i) :
    (setFlags mask p).getLsbD i = p.getLsbD i := by
  unfold setFlags
  rw [BitVec.getLsbD_or, getLsbD_mask4 mask hi, Bool.or_false]

theorem Related.ccClear (k : Related P E Q special) (mask : BitVec 4) : Relates E Q (ccClear mask) :=
  relates_update fun s => k.operator s _ (clearFlags_upper mask s.psw)

theorem Related.ccSet (k : Related P E Q special) (mask : BitVec 4) : Relates E Q (ccSet mask) :=
  relates_update fun s => k.operator s _ (setFlags_upper mask s.psw)

/-- The rule of every instruction but HALT respects the relations. -/
theorem Related.exec (k : Related P E Q special) (i : Instr) (hs : installsPsw i = true → special) (hh : i ≠ .halt) :
    ∃ how rule, (∀ s, exec i s = perform how rule s) ∧ Relates E Q rule := by
  have c := k.composes
  have nzv : ∀ i, flagsNZV i → i < 4 := fun _ h => h.2
  have nzvc : ∀ i, flagsNZVC i → i < 4 := fun _ h => h
  cases i with
  | halt => exact absurd rfl hh
  | wait => exact ⟨_, _, fun _ => rfl, relates_update k.wait⟩
  | reset => exact ⟨_, _, fun _ => rfl, relates_update k.busReset⟩
  | rti | rtt => exact ⟨_, _, fun _ => rfl, k.trapReturn (hs rfl)⟩
  | bpt | iot | emt | trap | reserved0007 | reserved0008 | reserved0010 | reserved0020 | reserved0088 | reserved0090 |
    reserved0D40 | reserved0D80 | reserved0E00 | reserved7000 | reserved7A00 | reserved7C00 | reserved8D40 |
    reserved8D80 | reserved8E00 | reservedF000 =>
    exact ⟨_, _, fun _ => rfl, k.trap (hs rfl) _ (by decide)⟩
  | nop | clc | clv | clvc | clz | clzc | clzv | clzvc | cln | clnc | clnv | clnvc | clnz | clnzc | clnzv | ccc =>
    exact ⟨_, _, fun _ => rfl, k.ccClear _⟩
  | se0 | sec | sev | sevc | sez | sezc | sezv | sezvc | sen | senc | senv | senvc | senz | senzc | senzv | scc =>
    exact ⟨_, _, fun _ => rfl, k.ccSet _⟩
  | br | bne | beq | bge | blt | bgt | ble | bpl | bmi | bhi | blos | bvc | bvs | bcc | bcs =>
    exact ⟨_, _, fun _ => rfl, k.branchIf _ _⟩
  | jmp dst =>
    exact ⟨_, _, fun _ => rfl, k.transfer dst (fun h => hs (by simp [installsPsw, h])) fun a =>
      relates_setReg (k.setReg .pc) a⟩
  | jsr r dst =>
    exact ⟨_, _, fun _ => rfl, k.transfer dst (fun h => hs (by simp [installsPsw, h])) fun a =>
      relates_bind c (relates_getReg c r) fun v => relates_bind c (relates_push c k.access (k.setReg .sp) v) fun _ =>
        relates_bind c (relates_getReg c .pc) fun link =>
          relates_bind c (relates_setReg (k.setReg r) link) fun _ => relates_setReg (k.setReg .pc) a⟩
  | rts r =>
    exact ⟨_, _, fun _ => rfl, k.last (relates_bind c (relates_getReg c r) fun _ =>
      relates_bind c (relates_setReg (k.setReg .pc) _) fun _ => relates_bind c k.pop fun _ =>
        relates_setReg (k.setReg r) _)⟩
  | mark nn =>
    exact ⟨_, _, fun _ => rfl, k.last (relates_bind c (relates_update fun s => k.setReg .sp s _) fun _ =>
      relates_bind c (relates_getReg c _) fun _ => relates_bind c (relates_setReg (k.setReg .pc) _) fun _ =>
        relates_bind c k.pop fun _ => relates_setReg (k.setReg .r5) _)⟩
  | sob r nn =>
    exact ⟨_, _, fun _ => rfl, k.last (relates_update fun s => by
      dsimp only
      split
      · exact k.setReg _ _ _
      · exact c.trans (k.setReg r s _) (k.setReg .pc _ _))⟩
  | clr | clrb => exact ⟨_, _, fun _ => rfl, k.writeOnly changes_clr nzvc⟩
  | com | comb => exact ⟨_, _, fun _ => rfl, k.readModifyWrite (changes_com _) nzvc⟩
  | inc | incb => exact ⟨_, _, fun _ => rfl, k.readModifyWrite (changes_inc _) nzv⟩
  | dec | decb => exact ⟨_, _, fun _ => rfl, k.readModifyWrite (changes_dec _) nzv⟩
  | neg | negb => exact ⟨_, _, fun _ => rfl, k.readModifyWrite (fun _ => changes_subFlags _ _ _ fun _ => false) nzvc⟩
  | adc | adcb => exact ⟨_, _, fun _ => rfl, k.readModifyWrite (fun _ => changes_addFlags _ _ _ flagC) nzvc⟩
  | sbc | sbcb => exact ⟨_, _, fun _ => rfl, k.readModifyWrite (fun _ => changes_subFlags _ _ _ flagC) nzvc⟩
  | ror | rorb =>
    exact ⟨_, _, fun _ => rfl, k.readModifyWrite (fun x => changes_shiftFlags _
      (fun p => (rorResult _ x p).1) _) nzvc⟩
  | rol | rolb =>
    exact ⟨_, _, fun _ => rfl, k.readModifyWrite (fun x => changes_shiftFlags _
      (fun p => (rolResult _ x p).1) _) nzvc⟩
  | asr | asrb =>
    exact ⟨_, _, fun _ => rfl, k.readModifyWrite (fun x => changes_shiftFlags _
      (fun p => (asrResult _ x p).1) _) nzvc⟩
  | asl | aslb =>
    exact ⟨_, _, fun _ => rfl, k.readModifyWrite (fun x => changes_shiftFlags _
      (fun p => (aslResult _ x p).1) _) nzvc⟩
  | tst | tstb => exact ⟨_, _, fun _ => rfl, k.readOnly (changes_tst _) nzvc⟩
  | swab => exact ⟨_, _, fun _ => rfl, k.readModifyWrite changes_swab nzvc⟩
  | sxt => exact ⟨_, _, fun _ => rfl, k.writeOnly changes_sxt fun i h => by omega⟩
  | mtps src =>
    refine ⟨_, _, fun _ => rfl, k.bind (k.readOperand .byte src) fun x => relates_update fun s =>
      k.mtps (hs rfl) s _ fun i hi => ?_⟩
    rw [getLsbD_mtps, if_neg (by omega)]
  | mfps dst => exact ⟨_, _, fun _ => rfl, k.bind (relates_look c _) fun v => k.storeByte dst v⟩
  | mov src dst =>
    exact ⟨_, _, fun _ => rfl, k.bind (k.readOperand .word src) fun v =>
      k.writeOnly (changes_logicFlags .word v) nzv⟩
  | movb src dst =>
    exact ⟨_, _, fun _ => rfl, k.bind (k.readOperand .byte src) fun v => k.storeByte dst v⟩
  | cmp | cmpb => exact ⟨_, _, fun _ => rfl, k.readBoth (fun _ _ => changes_subFlags _ _ _ fun _ => false) nzvc⟩
  | bit | bitb => exact ⟨_, _, fun _ => rfl, k.readBoth (fun _ _ => changes_logicFlags _ _) nzv⟩
  | bic | bicb => exact ⟨_, _, fun _ => rfl, k.combine (fun _ _ => changes_logicFlags _ _) nzv⟩
  | bis | bisb => exact ⟨_, _, fun _ => rfl, k.combine (fun _ _ => changes_logicFlags _ _) nzv⟩
  | add => exact ⟨_, _, fun _ => rfl, k.combine (fun _ _ => changes_addFlags _ _ _ fun _ => false) nzvc⟩
  | sub => exact ⟨_, _, fun _ => rfl, k.combine (fun _ _ => changes_subFlags _ _ _ fun _ => false) nzvc⟩
  | xor r dst =>
    exact ⟨_, _, fun _ => rfl, k.bind (relates_getReg c r) fun v =>
      k.readModifyWrite (fun x => changes_logicFlags _ _) nzv⟩

end

/-- An instruction that takes a sequence does nothing else. -/
theorem exec_of_sequenceOf {i : Instr} {s : State} {sequence : Act Unit} (h : sequenceOf i s = some sequence) :
    exec i s = perform .ordinary sequence s := by
  unfold sequenceOf at h
  split at h
  all_goals first
    | (cases h; rfl)
    | (split at h
       · rename_i dst hm; cases h; obtain ⟨m, r⟩ := dst; simp only at hm; subst hm; rfl
       · cases h)
    | skip
  split at h
  · cases h
    rename_i hr
    cases i <;> first | exact absurd hr (of_decide_eq_false rfl) | rfl
  · cases h

end Sys2Proof.Machine
end

