-- ==== Sys2Proof/Laws/PerInstr.lean ====
section
/-! SUPPORT. A statement about every instruction as syntax, with one lemma per constructor: the word the encoder gives
passes the test of the instruction's own row of the opcode table (spec/30_encoding.md R115). -/

namespace Sys2Proof.Laws

/-- The mask of an opcode in the top four bits keeps those bits alone. -/
theorem masked4 (h : BitVec 4) (a b : BitVec 6) : (h ++ a ++ b) &&& 0xF000#16 = h ++ 0#6 ++ 0#6 := by
  apply BitVec.eq_of_getLsbD_eq
  intro i hi
  simp only [BitVec.getLsbD_and, BitVec.getLsbD_append]
  interval_cases i <;> simp

theorem masked7 (h : BitVec 7) (a : BitVec 3) (b : BitVec 6) : (h ++ a ++ b) &&& 0xFE00#16 = h ++ 0#3 ++ 0#6 := by
  apply BitVec.eq_of_getLsbD_eq
  intro i hi
  simp only [BitVec.getLsbD_and, BitVec.getLsbD_append]
  interval_cases i <;> simp

theorem masked8 (h a : BitVec 8) : (h ++ a) &&& 0xFF00#16 = h ++ 0#8 := by
  apply BitVec.eq_of_getLsbD_eq
  intro i hi
  simp only [BitVec.getLsbD_and, BitVec.getLsbD_append]
  interval_cases i <;> simp

theorem masked10 (h : BitVec 10) (a : BitVec 6) : (h ++ a) &&& 0xFFC0#16 = h ++ 0#6 := by
  apply BitVec.eq_of_getLsbD_eq
  intro i hi
  simp only [BitVec.getLsbD_and, BitVec.getLsbD_append]
  interval_cases i <;> simp

theorem masked13 (h : BitVec 13) (a : BitVec 3) : (h ++ a) &&& 0xFFF8#16 = h ++ 0#3 := by
  apply BitVec.eq_of_getLsbD_eq
  intro i hi
  simp only [BitVec.getLsbD_and, BitVec.getLsbD_append]
  interval_cases i <;> simp

/-- A well-formed instruction's word passes the test of its row. -/
def TableRow.Statement (i : Instr) : Prop := i.wf = true → encode i &&& i.row.mask = i.row.pat

theorem TableRow.halt : TableRow.Statement .halt := fun _ => rfl
theorem TableRow.wait : TableRow.Statement .wait := fun _ => rfl
theorem TableRow.rti : TableRow.Statement .rti := fun _ => rfl
theorem TableRow.bpt : TableRow.Statement .bpt := fun _ => rfl
theorem TableRow.iot : TableRow.Statement .iot := fun _ => rfl
theorem TableRow.reset : TableRow.Statement .reset := fun _ => rfl
theorem TableRow.rtt : TableRow.Statement .rtt := fun _ => rfl
theorem TableRow.jmp (dst : Operand) : TableRow.Statement (.jmp dst) := fun _ => (masked10 _ _).trans rfl
theorem TableRow.rts (r : Reg) : TableRow.Statement (.rts r) := fun _ => (masked13 _ _).trans rfl
theorem TableRow.nop : TableRow.Statement .nop := fun _ => rfl
theorem TableRow.clc : TableRow.Statement .clc := fun _ => rfl
theorem TableRow.clv : TableRow.Statement .clv := fun _ => rfl
theorem TableRow.clvc : TableRow.Statement .clvc := fun _ => rfl
theorem TableRow.clz : TableRow.Statement .clz := fun _ => rfl
theorem TableRow.clzc : TableRow.Statement .clzc := fun _ => rfl
theorem TableRow.clzv : TableRow.Statement .clzv := fun _ => rfl
theorem TableRow.clzvc : TableRow.Statement .clzvc := fun _ => rfl
theorem TableRow.cln : TableRow.Statement .cln := fun _ => rfl
theorem TableRow.clnc : TableRow.Statement .clnc := fun _ => rfl
theorem TableRow.clnv : TableRow.Statement .clnv := fun _ => rfl
theorem TableRow.clnvc : TableRow.Statement .clnvc := fun _ => rfl
theorem TableRow.clnz : TableRow.Statement .clnz := fun _ => rfl
theorem TableRow.clnzc : TableRow.Statement .clnzc := fun _ => rfl
theorem TableRow.clnzv : TableRow.Statement .clnzv := fun _ => rfl
theorem TableRow.ccc : TableRow.Statement .ccc := fun _ => rfl
theorem TableRow.se0 : TableRow.Statement .se0 := fun _ => rfl
theorem TableRow.sec : TableRow.Statement .sec := fun _ => rfl
theorem TableRow.sev : TableRow.Statement .sev := fun _ => rfl
theorem TableRow.sevc : TableRow.Statement .sevc := fun _ => rfl
theorem TableRow.sez : TableRow.Statement .sez := fun _ => rfl
theorem TableRow.sezc : TableRow.Statement .sezc := fun _ => rfl
theorem TableRow.sezv : TableRow.Statement .sezv := fun _ => rfl
theorem TableRow.sezvc : TableRow.Statement .sezvc := fun _ => rfl
theorem TableRow.sen : TableRow.Statement .sen := fun _ => rfl
theorem TableRow.senc : TableRow.Statement .senc := fun _ => rfl
theorem TableRow.senv : TableRow.Statement .senv := fun _ => rfl
theorem TableRow.senvc : TableRow.Statement .senvc := fun _ => rfl
theorem TableRow.senz : TableRow.Statement .senz := fun _ => rfl
theorem TableRow.senzc : TableRow.Statement .senzc := fun _ => rfl
theorem TableRow.senzv : TableRow.Statement .senzv := fun _ => rfl
theorem TableRow.scc : TableRow.Statement .scc := fun _ => rfl
theorem TableRow.swab (dst : Operand) : TableRow.Statement (.swab dst) := fun _ => (masked10 _ _).trans rfl
theorem TableRow.br (off : BitVec 8) : TableRow.Statement (.br off) := fun _ => (masked8 _ _).trans rfl
theorem TableRow.bne (off : BitVec 8) : TableRow.Statement (.bne off) := fun _ => (masked8 _ _).trans rfl
theorem TableRow.beq (off : BitVec 8) : TableRow.Statement (.beq off) := fun _ => (masked8 _ _).trans rfl
theorem TableRow.bge (off : BitVec 8) : TableRow.Statement (.bge off) := fun _ => (masked8 _ _).trans rfl
theorem TableRow.blt (off : BitVec 8) : TableRow.Statement (.blt off) := fun _ => (masked8 _ _).trans rfl
theorem TableRow.bgt (off : BitVec 8) : TableRow.Statement (.bgt off) := fun _ => (masked8 _ _).trans rfl
theorem TableRow.ble (off : BitVec 8) : TableRow.Statement (.ble off) := fun _ => (masked8 _ _).trans rfl
theorem TableRow.bpl (off : BitVec 8) : TableRow.Statement (.bpl off) := fun _ => (masked8 _ _).trans rfl
theorem TableRow.bmi (off : BitVec 8) : TableRow.Statement (.bmi off) := fun _ => (masked8 _ _).trans rfl
theorem TableRow.bhi (off : BitVec 8) : TableRow.Statement (.bhi off) := fun _ => (masked8 _ _).trans rfl
theorem TableRow.blos (off : BitVec 8) : TableRow.Statement (.blos off) := fun _ => (masked8 _ _).trans rfl
theorem TableRow.bvc (off : BitVec 8) : TableRow.Statement (.bvc off) := fun _ => (masked8 _ _).trans rfl
theorem TableRow.bvs (off : BitVec 8) : TableRow.Statement (.bvs off) := fun _ => (masked8 _ _).trans rfl
theorem TableRow.bcc (off : BitVec 8) : TableRow.Statement (.bcc off) := fun _ => (masked8 _ _).trans rfl
theorem TableRow.bcs (off : BitVec 8) : TableRow.Statement (.bcs off) := fun _ => (masked8 _ _).trans rfl
theorem TableRow.jsr (r : Reg) (dst : Operand) : TableRow.Statement (.jsr r dst) := fun _ => (masked7 _ _ _).trans rfl
theorem TableRow.clr (dst : Operand) : TableRow.Statement (.clr dst) := fun _ => (masked10 _ _).trans rfl
theorem TableRow.clrb (dst : Operand) : TableRow.Statement (.clrb dst) := fun _ => (masked10 _ _).trans rfl
theorem TableRow.com (dst : Operand) : TableRow.Statement (.com dst) := fun _ => (masked10 _ _).trans rfl
theorem TableRow.comb (dst : Operand) : TableRow.Statement (.comb dst) := fun _ => (masked10 _ _).trans rfl
theorem TableRow.inc (dst : Operand) : TableRow.Statement (.inc dst) := fun _ => (masked10 _ _).trans rfl
theorem TableRow.incb (dst : Operand) : TableRow.Statement (.incb dst) := fun _ => (masked10 _ _).trans rfl
theorem TableRow.dec (dst : Operand) : TableRow.Statement (.dec dst) := fun _ => (masked10 _ _).trans rfl
theorem TableRow.decb (dst : Operand) : TableRow.Statement (.decb dst) := fun _ => (masked10 _ _).trans rfl
theorem TableRow.neg (dst : Operand) : TableRow.Statement (.neg dst) := fun _ => (masked10 _ _).trans rfl
theorem TableRow.negb (dst : Operand) : TableRow.Statement (.negb dst) := fun _ => (masked10 _ _).trans rfl
theorem TableRow.adc (dst : Operand) : TableRow.Statement (.adc dst) := fun _ => (masked10 _ _).trans rfl
theorem TableRow.adcb (dst : Operand) : TableRow.Statement (.adcb dst) := fun _ => (masked10 _ _).trans rfl
theorem TableRow.sbc (dst : Operand) : TableRow.Statement (.sbc dst) := fun _ => (masked10 _ _).trans rfl
theorem TableRow.sbcb (dst : Operand) : TableRow.Statement (.sbcb dst) := fun _ => (masked10 _ _).trans rfl
theorem TableRow.tst (dst : Operand) : TableRow.Statement (.tst dst) := fun _ => (masked10 _ _).trans rfl
theorem TableRow.tstb (dst : Operand) : TableRow.Statement (.tstb dst) := fun _ => (masked10 _ _).trans rfl
theorem TableRow.ror (dst : Operand) : TableRow.Statement (.ror dst) := fun _ => (masked10 _ _).trans rfl
theorem TableRow.rorb (dst : Operand) : TableRow.Statement (.rorb dst) := fun _ => (masked10 _ _).trans rfl
theorem TableRow.rol (dst : Operand) : TableRow.Statement (.rol dst) := fun _ => (masked10 _ _).trans rfl
theorem TableRow.rolb (dst : Operand) : TableRow.Statement (.rolb dst) := fun _ => (masked10 _ _).trans rfl
theorem TableRow.asr (dst : Operand) : TableRow.Statement (.asr dst) := fun _ => (masked10 _ _).trans rfl
theorem TableRow.asrb (dst : Operand) : TableRow.Statement (.asrb dst) := fun _ => (masked10 _ _).trans rfl
theorem TableRow.asl (dst : Operand) : TableRow.Statement (.asl dst) := fun _ => (masked10 _ _).trans rfl
theorem TableRow.aslb (dst : Operand) : TableRow.Statement (.aslb dst) := fun _ => (masked10 _ _).trans rfl
theorem TableRow.mark (nn : BitVec 6) : TableRow.Statement (.mark nn) := fun _ => (masked10 _ _).trans rfl
theorem TableRow.sxt (dst : Operand) : TableRow.Statement (.sxt dst) := fun _ => (masked10 _ _).trans rfl
theorem TableRow.mov (src : Operand) (dst : Operand) : TableRow.Statement (.mov src dst) := fun _ => (masked4 _ _ _).trans rfl
theorem TableRow.movb (src : Operand) (dst : Operand) : TableRow.Statement (.movb src dst) := fun _ => (masked4 _ _ _).trans rfl
theorem TableRow.cmp (src : Operand) (dst : Operand) : TableRow.Statement (.cmp src dst) := fun _ => (masked4 _ _ _).trans rfl
theorem TableRow.cmpb (src : Operand) (dst : Operand) : TableRow.Statement (.cmpb src dst) := fun _ => (masked4 _ _ _).trans rfl
theorem TableRow.bit (src : Operand) (dst : Operand) : TableRow.Statement (.bit src dst) := fun _ => (masked4 _ _ _).trans rfl
theorem TableRow.bitb (src : Operand) (dst : Operand) : TableRow.Statement (.bitb src dst) := fun _ => (masked4 _ _ _).trans rfl
theorem TableRow.bic (src : Operand) (dst : Operand) : TableRow.Statement (.bic src dst) := fun _ => (masked4 _ _ _).trans rfl
theorem TableRow.bicb (src : Operand) (dst : Operand) : TableRow.Statement (.bicb src dst) := fun _ => (masked4 _ _ _).trans rfl
theorem TableRow.bis (src : Operand) (dst : Operand) : TableRow.Statement (.bis src dst) := fun _ => (masked4 _ _ _).trans rfl
theorem TableRow.bisb (src : Operand) (dst : Operand) : TableRow.Statement (.bisb src dst) := fun _ => (masked4 _ _ _).trans rfl
theorem TableRow.add (src : Operand) (dst : Operand) : TableRow.Statement (.add src dst) := fun _ => (masked4 _ _ _).trans rfl
theorem TableRow.sub (src : Operand) (dst : Operand) : TableRow.Statement (.sub src dst) := fun _ => (masked4 _ _ _).trans rfl
theorem TableRow.xor (r : Reg) (dst : Operand) : TableRow.Statement (.xor r dst) := fun _ => (masked7 _ _ _).trans rfl
theorem TableRow.sob (r : Reg) (nn : BitVec 6) : TableRow.Statement (.sob r nn) := fun _ => (masked7 _ _ _).trans rfl
theorem TableRow.emt (code : BitVec 8) : TableRow.Statement (.emt code) := fun _ => (masked8 _ _).trans rfl
theorem TableRow.trap (code : BitVec 8) : TableRow.Statement (.trap code) := fun _ => (masked8 _ _).trans rfl
theorem TableRow.mtps (src : Operand) : TableRow.Statement (.mtps src) := fun _ => (masked10 _ _).trans rfl
theorem TableRow.mfps (dst : Operand) : TableRow.Statement (.mfps dst) := fun _ => (masked10 _ _).trans rfl
theorem TableRow.reserved0007 : TableRow.Statement .reserved0007 := fun _ => rfl
theorem TableRow.reserved0008 (w : Word) : TableRow.Statement (.reserved0008 w) := eq_of_beq
theorem TableRow.reserved0010 (w : Word) : TableRow.Statement (.reserved0010 w) := eq_of_beq
theorem TableRow.reserved0020 (w : Word) : TableRow.Statement (.reserved0020 w) := eq_of_beq
theorem TableRow.reserved0088 (w : Word) : TableRow.Statement (.reserved0088 w) := eq_of_beq
theorem TableRow.reserved0090 (w : Word) : TableRow.Statement (.reserved0090 w) := eq_of_beq
theorem TableRow.reserved0D40 (w : Word) : TableRow.Statement (.reserved0D40 w) := eq_of_beq
theorem TableRow.reserved0D80 (w : Word) : TableRow.Statement (.reserved0D80 w) := eq_of_beq
theorem TableRow.reserved0E00 (w : Word) : TableRow.Statement (.reserved0E00 w) := eq_of_beq
theorem TableRow.reserved7000 (w : Word) : TableRow.Statement (.reserved7000 w) := eq_of_beq
theorem TableRow.reserved7A00 (w : Word) : TableRow.Statement (.reserved7A00 w) := eq_of_beq
theorem TableRow.reserved7C00 (w : Word) : TableRow.Statement (.reserved7C00 w) := eq_of_beq
theorem TableRow.reserved8D40 (w : Word) : TableRow.Statement (.reserved8D40 w) := eq_of_beq
theorem TableRow.reserved8D80 (w : Word) : TableRow.Statement (.reserved8D80 w) := eq_of_beq
theorem TableRow.reserved8E00 (w : Word) : TableRow.Statement (.reserved8E00 w) := eq_of_beq
theorem TableRow.reservedF000 (w : Word) : TableRow.Statement (.reservedF000 w) := eq_of_beq

end Sys2Proof.Laws
end

