-- ==== Sys2Proof/Laws/Run.lean ====
section
/-! SUPPORT. The loop of `run`: any fuel that covers the cycles left gives the same end, so one turn is one
equation. -/

namespace Sys2Proof.Machine

theorem trapCycles_pos : 0 < trapCycles := Nat.succ_pos _

theorem instructionCycles_pos (s : State) : 0 < instructionCycles s := by
  unfold instructionCycles
  split <;> exact Nat.succ_pos _

/-- More fuel than the cycles left changes nothing. -/
theorem runLoop_fuel (fuel budget used : Nat) (s : State) (h : budget - used ≤ fuel) :
    runLoop fuel budget used s = runFrom budget used s := by
  unfold runFrom
  induction fuel using Nat.strongRecOn generalizing used s with
  | ind fuel ih =>
    cases fuel with
    | zero => rw [Nat.le_zero.mp h]
    | succ n =>
      by_cases hb : budget ≤ used
      · rw [show budget - used = 0 by omega]; simp [runLoop, hb]
      · obtain ⟨m, hm⟩ : ∃ m, budget - used = m + 1 := ⟨budget - used - 1, by omega⟩
        have go (c : Nat) (hc : 0 < c) (t : State) :
            runLoop n budget (used + c) t = runLoop m budget (used + c) t := by
          rw [ih n (by omega) _ t (by omega)]
          rcases Nat.lt_or_ge m (n + 1) with k | k
          · exact (ih m k _ t (by omega)).symm
          · omega
        rw [hm]
        unfold runLoop
        simp only [hb, if_false]
        split <;> try rfl
        · exact go _ trapCycles_pos _
        · exact go _ (instructionCycles_pos _) _

/-- One turn of the loop of R160. -/
theorem runFrom_turn (budget used : Nat) (s : State) : runFrom budget used s =
    if budget ≤ used then .next (used, s)
    else
      match coreStep s.takeInputs with
      | (_, .fault r) => .fault r
      | (_, .refused r) => .refused r
      | (.stuck, .next t) => .next (budget, t)
      | (.idle, .next t) => .next (budget, t)
      | (.trapTaken, .next t) => runFrom budget (used + trapCycles) t
      | (.executed, .next t) => runFrom budget (used + instructionCycles s.takeInputs.arbitrated) t := by
  by_cases hb : budget ≤ used
  · simp [runFrom, runLoop, show budget - used = 0 by omega, hb]
  · obtain ⟨m, hm⟩ : ∃ m, budget - used = m + 1 := ⟨budget - used - 1, by omega⟩
    rw [show runFrom budget used s = runLoop (m + 1) budget used s by rw [← hm]; rfl]
    have hc := instructionCycles_pos s.takeInputs.arbitrated
    have ht := trapCycles_pos
    simp only [runLoop, hb, if_false]
    rcases coreStep s.takeInputs with ⟨k, t | f | r⟩
    · cases k
      · rfl
      · exact runLoop_fuel _ _ _ _ (by omega)
      · rfl
      · exact runLoop_fuel _ _ _ _ (by omega)
    · rfl
    · rfl

end Sys2Proof.Machine
end

