-- ==== Sys2Proof/Tests/Slice0.lean ====
section
/-! SUPPORT. Tests of the model, and a witness for the hypotheses of each statement. Expected values come from the
spec: words from spec/30_encoding.md, results from the vectors and scenarios of spec/95_test_vectors.md, named in each
comment. -/

namespace Sys2Proof.Tests

open Sys2Proof.Machine

/-! ### Ill-formed instructions: a word outside its RESERVED row, below it and above it -/

/-- R119. -/
theorem test_illFormed_reserved0008 :
    Instr.wf (.reserved0008 0x0007) = false ∧ Instr.wf (.reserved0008 0x0010) = false ∧
    Instr.wf (.reserved0008 0x0008) = true ∧ Instr.wf (.reserved0008 0x000F) = true := by decide

/-- R119. -/
theorem test_illFormed_reserved0010 :
    Instr.wf (.reserved0010 0x000F) = false ∧ Instr.wf (.reserved0010 0x0020) = false ∧
    Instr.wf (.reserved0010 0x0010) = true ∧ Instr.wf (.reserved0010 0x001F) = true := by decide

/-- R119. -/
theorem test_illFormed_reserved0020 :
    Instr.wf (.reserved0020 0x001F) = false ∧ Instr.wf (.reserved0020 0x0040) = false ∧
    Instr.wf (.reserved0020 0x0020) = true ∧ Instr.wf (.reserved0020 0x003F) = true := by decide

/-- R119. -/
theorem test_illFormed_reserved0088 :
    Instr.wf (.reserved0088 0x0087) = false ∧ Instr.wf (.reserved0088 0x0090) = false ∧
    Instr.wf (.reserved0088 0x0088) = true ∧ Instr.wf (.reserved0088 0x008F) = true := by decide

/-- R119. -/
theorem test_illFormed_reserved0090 :
    Instr.wf (.reserved0090 0x008F) = false ∧ Instr.wf (.reserved0090 0x00A0) = false ∧
    Instr.wf (.reserved0090 0x0090) = true ∧ Instr.wf (.reserved0090 0x009F) = true := by decide

/-- R119. -/
theorem test_illFormed_reserved0D40 :
    Instr.wf (.reserved0D40 0x0D3F) = false ∧ Instr.wf (.reserved0D40 0x0D80) = false ∧
    Instr.wf (.reserved0D40 0x0D40) = true ∧ Instr.wf (.reserved0D40 0x0D7F) = true := by decide

/-- R119. -/
theorem test_illFormed_reserved0D80 :
    Instr.wf (.reserved0D80 0x0D7F) = false ∧ Instr.wf (.reserved0D80 0x0DC0) = false ∧
    Instr.wf (.reserved0D80 0x0D80) = true ∧ Instr.wf (.reserved0D80 0x0DBF) = true := by decide

/-- R119. -/
theorem test_illFormed_reserved0E00 :
    Instr.wf (.reserved0E00 0x0DFF) = false ∧ Instr.wf (.reserved0E00 0x1000) = false ∧
    Instr.wf (.reserved0E00 0x0E00) = true ∧ Instr.wf (.reserved0E00 0x0FFF) = true := by decide

/-- R119. -/
theorem test_illFormed_reserved7000 :
    Instr.wf (.reserved7000 0x6FFF) = false ∧ Instr.wf (.reserved7000 0x7800) = false ∧
    Instr.wf (.reserved7000 0x7000) = true ∧ Instr.wf (.reserved7000 0x77FF) = true := by decide

/-- R119. -/
theorem test_illFormed_reserved7A00 :
    Instr.wf (.reserved7A00 0x79FF) = false ∧ Instr.wf (.reserved7A00 0x7C00) = false ∧
    Instr.wf (.reserved7A00 0x7A00) = true ∧ Instr.wf (.reserved7A00 0x7BFF) = true := by decide

/-- R119. -/
theorem test_illFormed_reserved7C00 :
    Instr.wf (.reserved7C00 0x7BFF) = false ∧ Instr.wf (.reserved7C00 0x7E00) = false ∧
    Instr.wf (.reserved7C00 0x7C00) = true ∧ Instr.wf (.reserved7C00 0x7DFF) = true := by decide

/-- R119. -/
theorem test_illFormed_reserved8D40 :
    Instr.wf (.reserved8D40 0x8D3F) = false ∧ Instr.wf (.reserved8D40 0x8D80) = false ∧
    Instr.wf (.reserved8D40 0x8D40) = true ∧ Instr.wf (.reserved8D40 0x8D7F) = true := by decide

/-- R119. -/
theorem test_illFormed_reserved8D80 :
    Instr.wf (.reserved8D80 0x8D7F) = false ∧ Instr.wf (.reserved8D80 0x8DC0) = false ∧
    Instr.wf (.reserved8D80 0x8D80) = true ∧ Instr.wf (.reserved8D80 0x8DBF) = true := by decide

/-- R119. -/
theorem test_illFormed_reserved8E00 :
    Instr.wf (.reserved8E00 0x8DFF) = false ∧ Instr.wf (.reserved8E00 0x9000) = false ∧
    Instr.wf (.reserved8E00 0x8E00) = true ∧ Instr.wf (.reserved8E00 0x8FFF) = true := by decide

/-- R119. -/
theorem test_illFormed_reservedF000 :
    Instr.wf (.reservedF000 0xEFFF) = false ∧ Instr.wf (.reservedF000 0x0000) = false ∧
    Instr.wf (.reservedF000 0xF000) = true ∧ Instr.wf (.reservedF000 0xFFFF) = true := by decide

/-! ### Words written out from the encodings -/

/-- Format NONE, EMT and TRAP (R107, R110). -/
theorem test_decodeSystem :
    decode 0x0000 = .halt ∧ decode 0x0001 = .wait ∧ decode 0x0002 = .rti ∧ decode 0x0003 = .bpt ∧
    decode 0x0004 = .iot ∧ decode 0x0005 = .reset ∧ decode 0x0006 = .rtt ∧ decode 0x88C1 = .emt 0xC1 ∧
    decode 0x89CC = .trap 0xCC := by decide

/-- Formats RDOP, SOB, MARK, RTS and JMP (R105, R106, R108). -/
theorem test_decodeTransfer :
    decode 0x0053 = .jmp ⟨.autoInc, .r3⟩ ∧ decode 0x0085 = .rts .r5 ∧ decode 0x0821 = .jsr .r0 ⟨.autoDec, .r1⟩ ∧
    decode 0x0D2D = .mark 0x2D ∧ decode 0x797A = .xor .r5 ⟨.indexDeferred, .r2⟩ ∧ decode 0x7E2C = .sob .r0 0x2C := by decide

/-- Format CC (R109). -/
theorem test_decodeConditionCodeA :
    decode 0x00A0 = .nop ∧ decode 0x00A1 = .clc ∧ decode 0x00A2 = .clv ∧ decode 0x00A3 = .clvc ∧
    decode 0x00A4 = .clz ∧ decode 0x00A5 = .clzc ∧ decode 0x00A6 = .clzv ∧ decode 0x00A7 = .clzvc ∧
    decode 0x00A8 = .cln ∧ decode 0x00A9 = .clnc ∧ decode 0x00AA = .clnv ∧ decode 0x00AB = .clnvc ∧
    decode 0x00AC = .clnz ∧ decode 0x00AD = .clnzc ∧ decode 0x00AE = .clnzv ∧ decode 0x00AF = .ccc := by decide

/-- Format CC (R109). -/
theorem test_decodeConditionCodeB :
    decode 0x00B0 = .se0 ∧ decode 0x00B1 = .sec ∧ decode 0x00B2 = .sev ∧ decode 0x00B3 = .sevc ∧
    decode 0x00B4 = .sez ∧ decode 0x00B5 = .sezc ∧ decode 0x00B6 = .sezv ∧ decode 0x00B7 = .sezvc ∧
    decode 0x00B8 = .sen ∧ decode 0x00B9 = .senc ∧ decode 0x00BA = .senv ∧ decode 0x00BB = .senvc ∧
    decode 0x00BC = .senz ∧ decode 0x00BD = .senzc ∧ decode 0x00BE = .senzv ∧ decode 0x00BF = .scc := by decide

/-- Format SOP, words (R106). -/
theorem test_decodeSingleOperand :
    decode 0x00E1 = .swab ⟨.autoDec, .r1⟩ ∧ decode 0x0A08 = .clr ⟨.deferred, .r0⟩ ∧
    decode 0x0A5E = .com ⟨.autoIncDeferred, .sp⟩ ∧ decode 0x0AAC = .inc ⟨.autoDecDeferred, .r4⟩ ∧
    decode 0x0AFA = .dec ⟨.indexDeferred, .r2⟩ ∧ decode 0x0B08 = .neg ⟨.deferred, .r0⟩ ∧
    decode 0x0B5E = .adc ⟨.autoIncDeferred, .sp⟩ ∧ decode 0x0BAC = .sbc ⟨.autoDecDeferred, .r4⟩ ∧
    decode 0x0BFA = .tst ⟨.indexDeferred, .r2⟩ ∧ decode 0x0C08 = .ror ⟨.deferred, .r0⟩ ∧
    decode 0x0C5E = .rol ⟨.autoIncDeferred, .sp⟩ ∧ decode 0x0CAC = .asr ⟨.autoDecDeferred, .r4⟩ ∧
    decode 0x0CFA = .asl ⟨.indexDeferred, .r2⟩ ∧ decode 0x0DF7 = .sxt ⟨.index, .pc⟩ := by decide

/-- Format BR (R107). -/
theorem test_decodeBranch :
    decode 0x01D9 = .br 0xD9 ∧ decode 0x02E4 = .bne 0xE4 ∧ decode 0x03EF = .beq 0xEF ∧ decode 0x04FA = .bge 0xFA ∧
    decode 0x0585 = .blt 0x85 ∧ decode 0x0690 = .bgt 0x90 ∧ decode 0x079B = .ble 0x9B ∧ decode 0x80A6 = .bpl 0xA6 ∧
    decode 0x81B1 = .bmi 0xB1 ∧ decode 0x82BC = .bhi 0xBC ∧ decode 0x83C7 = .blos 0xC7 ∧ decode 0x84D2 = .bvc 0xD2 ∧
    decode 0x85DD = .bvs 0xDD ∧ decode 0x86E8 = .bcc 0xE8 ∧ decode 0x87F3 = .bcs 0xF3 := by decide

/-- Format SOP, bytes and status (R106). -/
theorem test_decodeSingleOperandByte :
    decode 0x8A37 = .clrb ⟨.index, .pc⟩ ∧ decode 0x8A45 = .comb ⟨.register, .r5⟩ ∧
    decode 0x8A93 = .incb ⟨.autoInc, .r3⟩ ∧ decode 0x8AE1 = .decb ⟨.autoDec, .r1⟩ ∧
    decode 0x8B37 = .negb ⟨.index, .pc⟩ ∧ decode 0x8B45 = .adcb ⟨.register, .r5⟩ ∧
    decode 0x8B93 = .sbcb ⟨.autoInc, .r3⟩ ∧ decode 0x8BE1 = .tstb ⟨.autoDec, .r1⟩ ∧
    decode 0x8C37 = .rorb ⟨.index, .pc⟩ ∧ decode 0x8C45 = .rolb ⟨.register, .r5⟩ ∧
    decode 0x8C93 = .asrb ⟨.autoInc, .r3⟩ ∧ decode 0x8CE1 = .aslb ⟨.autoDec, .r1⟩ ∧
    decode 0x8D1E = .mtps ⟨.autoIncDeferred, .sp⟩ ∧ decode 0x8DC5 = .mfps ⟨.register, .r5⟩ := by decide

/-- Format DOP (R104). -/
theorem test_decodeDoubleOperand :
    decode 0x1A1E = .mov ⟨.autoDecDeferred, .r0⟩ ⟨.autoIncDeferred, .sp⟩ ∧
    decode 0x9CC5 = .movb ⟨.index, .r3⟩ ⟨.register, .r5⟩ ∧
    decode 0x2FAC = .cmp ⟨.indexDeferred, .sp⟩ ⟨.autoDecDeferred, .r4⟩ ∧
    decode 0xA053 = .cmpb ⟨.register, .r1⟩ ⟨.autoInc, .r3⟩ ∧
    decode 0x333A = .bit ⟨.deferred, .r4⟩ ⟨.indexDeferred, .r2⟩ ∧
    decode 0xB5E1 = .bitb ⟨.autoInc, .pc⟩ ⟨.autoDec, .r1⟩ ∧
    decode 0x4688 = .bic ⟨.autoIncDeferred, .r2⟩ ⟨.deferred, .r0⟩ ∧
    decode 0xC977 = .bicb ⟨.autoDec, .r5⟩ ⟨.index, .pc⟩ ∧
    decode 0x5A1E = .bis ⟨.autoDecDeferred, .r0⟩ ⟨.autoIncDeferred, .sp⟩ ∧
    decode 0xDCC5 = .bisb ⟨.index, .r3⟩ ⟨.register, .r5⟩ ∧
    decode 0x6FAC = .add ⟨.indexDeferred, .sp⟩ ⟨.autoDecDeferred, .r4⟩ ∧
    decode 0xE053 = .sub ⟨.register, .r1⟩ ⟨.autoInc, .r3⟩ := by decide

/-- The last word of each RESERVED row (R117). -/
theorem test_decodeReserved :
    decode 0x0007 = .reserved0007 ∧ decode 0x000F = .reserved0008 0x000F ∧ decode 0x001F = .reserved0010 0x001F ∧
    decode 0x003F = .reserved0020 0x003F ∧ decode 0x008F = .reserved0088 0x008F ∧
    decode 0x009F = .reserved0090 0x009F ∧ decode 0x0D7F = .reserved0D40 0x0D7F ∧
    decode 0x0DBF = .reserved0D80 0x0DBF ∧ decode 0x0FFF = .reserved0E00 0x0FFF ∧
    decode 0x77FF = .reserved7000 0x77FF ∧ decode 0x7BFF = .reserved7A00 0x7BFF ∧
    decode 0x7DFF = .reserved7C00 0x7DFF ∧ decode 0x8D7F = .reserved8D40 0x8D7F ∧
    decode 0x8DBF = .reserved8D80 0x8DBF ∧ decode 0x8FFF = .reserved8E00 0x8FFF ∧ decode 0xFFFF = .reservedF000 0xFFFF := by decide

/-! ### One step of each instruction, from the vectors -/

/-- R0 to R5 zero, SP = 0x0400, PC = 0x1000: the start of the vectors. -/
def regs0 : Regs := ⟨0, 0, 0, 0, 0, 0, 0x0400, 0x1000⟩

/-- A BASE machine with registers, a PSW and words in memory. -/
def start (g : Regs) (psw : Word) (cells : List (Word × Word)) : State :=
  cells.foldl (fun s c => s.storeMem .word c.1 c.2) { State.reset with regs := g, psw := psw }

/-- A part of the state that a step answers. -/
def seen {α : Type} (f : State → α) : Host.Outcome State Fault Refusal → Option α
  | .next s => some (f s)
  | _ => none

/-- Vector D2. -/
theorem test_mov : seen (fun t => (t.regs.r0, t.memValue .word 0x2000, t.psw))
    (step (start { regs0 with r0 := 0x2000 } 0x0000 [(0x1000, 0x1010)])) =
    some (0x2002, 0x2000, 0x0000) := by decide

/-- Vector D4. -/
theorem test_movb : seen (fun t => (t.regs.r0, t.psw))
    (step (start { regs0 with r0 := 0x1234, r1 := 0x2001 } 0x0000 [(0x1000, 0x9240), (0x2000, 0x8000)])) =
    some (0xFF80, 0x0008) := by decide

/-- Vector D5. -/
theorem test_movbMemory : seen (fun t => (t.memByte 0x2001, t.memByte 0x2000))
    (step (start { regs0 with r0 := 0x2001, r1 := 0x00AB } 0x0000 [(0x1000, 0x9048), (0x2000, 0x1111)])) =
    some (0xAB, 0x11) := by decide

/-- Vector F10. -/
theorem test_cmp : seen (fun t => t.psw)
    (step (start { regs0 with r0 := 0x0001, r1 := 0x8000 } 0x0000 [(0x1000, 0x2040)])) = some 0x0002 := by decide

/-- Vector D7. -/
theorem test_cmpb : seen (fun t => t.psw)
    (step (start { regs0 with r0 := 0x0001, r1 := 0x0080 } 0x0000 [(0x1000, 0xA040)])) = some 0x0002 := by decide

/-- Vector D8. -/
theorem test_bit : seen (fun t => (t.regs.r0, t.psw))
    (step (start { regs0 with r0 := 0x8001 } 0x0002 [(0x1000, 0x35C0), (0x1002, 0x8000)])) =
    some (0x8001, 0x0008) := by decide

/-- Vector D9. -/
theorem test_bitb : seen (fun t => t.psw)
    (step (start { regs0 with r0 := 0xFF0F, r1 := 0x00F0 } 0x0000 [(0x1000, 0xB040)])) = some 0x0004 := by decide

/-- Vector D10. -/
theorem test_bic : seen (fun t => (t.regs.r0, t.psw))
    (step (start { regs0 with r0 := 0x1234, r1 := 0x00FF } 0x0000 [(0x1000, 0x4040)])) =
    some (0x1200, 0x0000) := by decide

/-- Vector D11. -/
theorem test_bicb : seen (fun t => (t.regs.r0, t.psw))
    (step (start { regs0 with r0 := 0x12F4, r1 := 0x00FF } 0x0000 [(0x1000, 0xC040)])) =
    some (0x1200, 0x0004) := by decide

/-- Vector D12. -/
theorem test_bis : seen (fun t => (t.regs.r0, t.psw))
    (step (start { regs0 with r0 := 0x0001, r1 := 0x8000 } 0x0000 [(0x1000, 0x5040)])) =
    some (0x8001, 0x0008) := by decide

/-- Vector D13. -/
theorem test_bisb : seen (fun t => (t.memValue .word 0x2000, t.psw))
    (step (start { regs0 with r0 := 0x2000, r1 := 0x0080 } 0x0000 [(0x1000, 0xD048), (0x2000, 0x1201)])) =
    some (0x1281, 0x0008) := by decide

/-- Vector F1. -/
theorem test_addOverflow : seen (fun t => (t.regs.r0, t.psw, t.regs.pc))
    (step (start { regs0 with r0 := 0x7FFF } 0x0000 [(0x1000, 0x65C0), (0x1002, 0x0001)])) =
    some (0x8000, 0x000A, 0x1004) := by decide

/-- Vector D16. -/
theorem test_addIndexed : seen (fun t => (t.regs.r0, t.regs.pc))
    (step (start { regs0 with r0 := 0x0010, r1 := 0x2000 } 0x0000 [(0x1000, 0x6C40), (0x1002, 0x0002),
      (0x2002, 0x0020)])) =
    some (0x0030, 0x1004) := by decide

/-- Vector F7. -/
theorem test_sub : seen (fun t => (t.regs.r0, t.psw))
    (step (start { regs0 with r0 := 0x7FFF, r1 := 0xFFFF } 0x0000 [(0x1000, 0xE040)])) =
    some (0x8000, 0x000B) := by decide

/-- Vector D15. -/
theorem test_xor : seen (fun t => (t.memValue .word 0x2000, t.regs.r0))
    (step (start { regs0 with r0 := 0x2000, r1 := 0x00FF } 0x0000 [(0x1000, 0x7850), (0x2000, 0x0F0F)])) =
    some (0x0FF0, 0x2002) := by decide

/-- Vector S1. -/
theorem test_clr : seen (fun t => (t.memValue .word 0x2000, t.psw, t.regs.r0))
    (step (start { regs0 with r0 := 0x2000 } 0x000B [(0x1000, 0x0A10), (0x2000, 0xFFFF)])) =
    some (0x0000, 0x0004, 0x2002) := by decide

/-- Vector S2. -/
theorem test_clrb : seen (fun t => (t.regs.r0, t.psw))
    (step (start { regs0 with r0 := 0x1234 } 0x0000 [(0x1000, 0x8A00)])) = some (0x1200, 0x0004) := by decide

/-- Vector S3. -/
theorem test_com : seen (fun t => (t.regs.r0, t.psw))
    (step (start { regs0 with r0 := 0x00FF } 0x0000 [(0x1000, 0x0A40)])) = some (0xFF00, 0x0009) := by decide

/-- Vector S4. -/
theorem test_comb : seen (fun t => (t.regs.r0, t.psw))
    (step (start { regs0 with r0 := 0x12FF } 0x0000 [(0x1000, 0x8A40)])) = some (0x1200, 0x0005) := by decide

/-- Vector S5. -/
theorem test_inc : seen (fun t => (t.regs.r0, t.psw))
    (step (start { regs0 with r0 := 0x7FFF } 0x0001 [(0x1000, 0x0A80)])) = some (0x8000, 0x000B) := by decide

/-- Vector A15. -/
theorem test_incImmediate : seen (fun t => (t.memValue .word 0x1002, t.regs.pc))
    (step (start regs0 0x0000 [(0x1000, 0x0A97), (0x1002, 0x0041)])) = some (0x0042, 0x1004) := by decide

/-- Vector S7. -/
theorem test_incb : seen (fun t => (t.regs.r0, t.psw))
    (step (start { regs0 with r0 := 0x017F } 0x0000 [(0x1000, 0x8A80)])) = some (0x0180, 0x000A) := by decide

/-- Vector A7. -/
theorem test_incbDeferred : seen (fun t => (t.regs.r2, t.memByte 0x3001))
    (step (start { regs0 with r2 := 0x2000 } 0x0000 [(0x1000, 0x8A9A), (0x2000, 0x3001), (0x3000, 0x00FF)])) =
    some (0x2002, 0x01) := by decide

/-- Vector S8. -/
theorem test_dec : seen (fun t => (t.regs.r0, t.psw))
    (step (start { regs0 with r0 := 0x8000 } 0x0000 [(0x1000, 0x0AC0)])) = some (0x7FFF, 0x0002) := by decide

/-- Vector S9. -/
theorem test_decb : seen (fun t => (t.regs.r0, t.psw))
    (step (start { regs0 with r0 := 0x1200 } 0x0000 [(0x1000, 0x8AC0)])) = some (0x12FF, 0x0008) := by decide

/-- Vector S11. -/
theorem test_neg : seen (fun t => (t.regs.r0, t.psw))
    (step (start { regs0 with r0 := 0x8000 } 0x0000 [(0x1000, 0x0B00)])) = some (0x8000, 0x000B) := by decide

/-- Vector S12. -/
theorem test_negb : seen (fun t => (t.regs.r0, t.psw))
    (step (start { regs0 with r0 := 0x0080 } 0x0000 [(0x1000, 0x8B00)])) = some (0x0080, 0x000B) := by decide

/-- Vector S13. -/
theorem test_adc : seen (fun t => (t.regs.r0, t.psw))
    (step (start { regs0 with r0 := 0x7FFF } 0x0001 [(0x1000, 0x0B40)])) = some (0x8000, 0x000A) := by decide

/-- Vector S15. -/
theorem test_adcb : seen (fun t => (t.regs.r0, t.psw))
    (step (start { regs0 with r0 := 0x12FF } 0x0001 [(0x1000, 0x8B40)])) = some (0x1200, 0x0005) := by decide

/-- Vector S17. -/
theorem test_sbc : seen (fun t => (t.regs.r0, t.psw))
    (step (start { regs0 with r0 := 0x0000 } 0x0001 [(0x1000, 0x0B80)])) = some (0xFFFF, 0x0009) := by decide

/-- Vector S18. -/
theorem test_sbcb : seen (fun t => (t.regs.r0, t.psw))
    (step (start { regs0 with r0 := 0x0080 } 0x0001 [(0x1000, 0x8B80)])) = some (0x007F, 0x0002) := by decide

/-- Vector S19. -/
theorem test_tst : seen (fun t => t.psw) (step (start { regs0 with r0 := 0x8000 } 0x0003 [(0x1000, 0x0BC0)])) =
    some 0x0008 := by decide

/-- Vector S20. -/
theorem test_tstb : seen (fun t => (t.regs.sp, t.psw))
    (step (start regs0 0x0000 [(0x1000, 0x8BD6), (0x0400, 0x0080)])) = some (0x0402, 0x0008) := by decide

/-- Vector S22. -/
theorem test_ror : seen (fun t => (t.regs.r0, t.psw))
    (step (start { regs0 with r0 := 0x0000 } 0x0001 [(0x1000, 0x0C00)])) = some (0x8000, 0x000A) := by decide

/-- Vector S23. -/
theorem test_rorb : seen (fun t => (t.regs.r0, t.psw))
    (step (start { regs0 with r0 := 0x0101 } 0x0000 [(0x1000, 0x8C00)])) = some (0x0100, 0x0007) := by decide

/-- Vector S24. -/
theorem test_rol : seen (fun t => (t.regs.r0, t.psw))
    (step (start { regs0 with r0 := 0x8000 } 0x0001 [(0x1000, 0x0C40)])) = some (0x0001, 0x0003) := by decide

/-- Vector S25. -/
theorem test_rolb : seen (fun t => (t.regs.r0, t.psw))
    (step (start { regs0 with r0 := 0x0040 } 0x0000 [(0x1000, 0x8C40)])) = some (0x0080, 0x000A) := by decide

/-- Vector S26. -/
theorem test_asr : seen (fun t => (t.regs.r0, t.psw))
    (step (start { regs0 with r0 := 0xFFFF } 0x0000 [(0x1000, 0x0C80)])) = some (0xFFFF, 0x0009) := by decide

/-- Vector S28. -/
theorem test_asrb : seen (fun t => (t.regs.r0, t.psw))
    (step (start { regs0 with r0 := 0x0080 } 0x0000 [(0x1000, 0x8C80)])) = some (0x00C0, 0x000A) := by decide

/-- Vector S29. -/
theorem test_asl : seen (fun t => (t.regs.r0, t.psw))
    (step (start { regs0 with r0 := 0xC000 } 0x0000 [(0x1000, 0x0CC0)])) = some (0x8000, 0x0009) := by decide

/-- Vector S31. -/
theorem test_aslb : seen (fun t => (t.regs.r0, t.psw))
    (step (start { regs0 with r0 := 0x0180 } 0x0000 [(0x1000, 0x8CC0)])) = some (0x0100, 0x0007) := by decide

/-- Vector S33. -/
theorem test_swab : seen (fun t => (t.regs.r0, t.psw))
    (step (start { regs0 with r0 := 0x8000 } 0x0000 [(0x1000, 0x00C0)])) = some (0x0080, 0x0008) := by decide

/-- Vector S34. -/
theorem test_sxt : seen (fun t => (t.regs.r0, t.psw))
    (step (start { regs0 with r0 := 0x1234 } 0x0003 [(0x1000, 0x0DC0)])) = some (0x0000, 0x0005) := by decide

/-- Vector S37. -/
theorem test_mtps : seen (fun t => t.psw) (step (start { regs0 with r0 := 0xFFE5 } 0x0010 [(0x1000, 0x8D00)])) =
    some 0x00F5 := by decide

/-- Vector S38. -/
theorem test_mfps : seen (fun t => (t.regs.r0, t.psw))
    (step (start { regs0 with r0 := 0x1234 } 0x00E1 [(0x1000, 0x8DC0)])) = some (0xFFE1, 0x00E9) := by decide

/-- Vector S39. -/
theorem test_mfpsMemory : seen (fun t => (t.memValue .word 0x2000, t.psw))
    (step (start { regs0 with r1 := 0x2001 } 0x0004 [(0x1000, 0x8DC9), (0x2000, 0x5555)])) =
    some (0x0455, 0x0000) := by decide

/-- Vector B34. -/
theorem test_br : seen (fun t => t.regs.pc) (step (start regs0 0x0000 [(0x1000, 0x0180)])) =
    some 0x0F02 := by decide

/-- Vector B3. -/
theorem test_bne : seen (fun t => t.regs.pc) (step (start regs0 0x0004 [(0x1000, 0x0210)])) =
    some 0x1002 := by decide

/-- Vector B4. -/
theorem test_beq : seen (fun t => t.regs.pc) (step (start regs0 0x0004 [(0x1000, 0x0310)])) =
    some 0x1022 := by decide

/-- Vector B7. -/
theorem test_bge : seen (fun t => t.regs.pc) (step (start regs0 0x000A [(0x1000, 0x0410)])) =
    some 0x1022 := by decide

/-- Vector B10. -/
theorem test_blt : seen (fun t => t.regs.pc) (step (start regs0 0x000A [(0x1000, 0x0510)])) =
    some 0x1002 := by decide

/-- Vector B13. -/
theorem test_bgt : seen (fun t => t.regs.pc) (step (start regs0 0x0002 [(0x1000, 0x0610)])) =
    some 0x1002 := by decide

/-- Vector B16. -/
theorem test_ble : seen (fun t => t.regs.pc) (step (start regs0 0x000A [(0x1000, 0x0710)])) =
    some 0x1002 := by decide

/-- Vector B18. -/
theorem test_bpl : seen (fun t => t.regs.pc) (step (start regs0 0x0008 [(0x1000, 0x8010)])) =
    some 0x1002 := by decide

/-- Vector B19. -/
theorem test_bmi : seen (fun t => t.regs.pc) (step (start regs0 0x0008 [(0x1000, 0x8110)])) =
    some 0x1022 := by decide

/-- Vector B22. -/
theorem test_bhi : seen (fun t => t.regs.pc) (step (start regs0 0x0004 [(0x1000, 0x8210)])) =
    some 0x1002 := by decide

/-- Vector B24. -/
theorem test_blos : seen (fun t => t.regs.pc) (step (start regs0 0x0004 [(0x1000, 0x8310)])) =
    some 0x1022 := by decide

/-- Vector B27. -/
theorem test_bvc : seen (fun t => t.regs.pc) (step (start regs0 0x0002 [(0x1000, 0x8410)])) =
    some 0x1002 := by decide

/-- Vector B28. -/
theorem test_bvs : seen (fun t => t.regs.pc) (step (start regs0 0x0002 [(0x1000, 0x8510)])) =
    some 0x1022 := by decide

/-- Vector B30. -/
theorem test_bcc : seen (fun t => t.regs.pc) (step (start regs0 0x0001 [(0x1000, 0x8610)])) =
    some 0x1002 := by decide

/-- Vector B31. -/
theorem test_bcs : seen (fun t => t.regs.pc) (step (start regs0 0x0001 [(0x1000, 0x8710)])) =
    some 0x1022 := by decide

/-- Vector T2. -/
theorem test_sob : seen (fun t => (t.regs.r1, t.regs.pc))
    (step (start { regs0 with r1 := 0x0000 } 0x0000 [(0x1000, 0x7E42)])) = some (0xFFFF, 0x0FFE) := by decide

/-- Vector T6. -/
theorem test_jmp : seen (fun t => t.regs.pc)
    (step (start { regs0 with r1 := 0x3000 } 0x0000 [(0x1000, 0x0071), (0x1002, 0x0002)])) =
    some 0x3002 := by decide

/-- Vector T7. -/
theorem test_jmpRegister : seen (fun t => (t.regs.pc, t.memValue .word 0x03FC, t.memValue .word 0x03FE))
    (step (start { regs0 with r1 := 0x3000 } 0x0003 [(0x1000, 0x0041), (0x0008, 0x2000), (0x000A, 0x00E0)])) =
    some (0x2000, 0x1002, 0x0003) := by decide

/-- Vector T10. -/
theorem test_jsrStack : seen (fun t => (t.regs.sp, t.memValue .word 0x03FE))
    (step (start { regs0 with r1 := 0x3000 } 0x0000 [(0x1000, 0x0989)])) = some (0x1002, 0x0400) := by decide

/-- Vector T11. -/
theorem test_jsrCoroutine : seen (fun t => (t.regs.sp, t.regs.pc, t.memValue .word 0x0400))
    (step (start regs0 0x0000 [(0x1000, 0x09DE), (0x0400, 0x3000)])) = some (0x0400, 0x3000, 0x1002) := by decide

/-- Vector T13. -/
theorem test_rts : seen (fun t => (t.regs.r5, t.regs.sp, t.regs.pc))
    (step (start { regs0 with r5 := 0x3000, sp := 0x03FE } 0x0000 [(0x1000, 0x0085), (0x03FE, 0x5555)])) =
    some (0x5555, 0x0400, 0x3000) := by decide

/-- Vector T15. -/
theorem test_mark : seen (fun t => (t.regs.r5, t.regs.sp, t.regs.pc))
    (step (start { regs0 with r5 := 0x3000 } 0x0000 [(0x1000, 0x0D00), (0x1002, 0x7777)])) =
    some (0x7777, 0x1004, 0x3000) := by decide

/-- Vector Y1. -/
theorem test_halt : seen (fun t => (t.regs.pc, t.memValue .word 0x03FC, t.memValue .word 0x03FE))
    (step (start regs0 0x0001 [(0x1000, 0x0000), (0x0004, 0x2004), (0x0006, 0x00E0)])) =
    some (0x2004, 0x1002, 0x0001) := by decide

/-- Vector Y2. -/
theorem test_wait : seen (fun t => (t.waitState, t.regs.pc)) (step (start regs0 0x0000 [(0x1000, 0x0001)])) =
    some (true, 0x1002) := by decide

/-- Vector Y4. -/
theorem test_rti : seen (fun t => (t.psw, t.regs.pc, t.regs.sp))
    (step (start { regs0 with sp := 0x03FC } 0x0000 [(0x1000, 0x0002), (0x03FC, 0x3000), (0x03FE, 0xFFFF)])) =
    some (0x00FF, 0x3000, 0x0400) := by decide

/-- Vector Y9. -/
theorem test_rtiTrace : seen (fun t => t.tracePending)
    (step (start { regs0 with sp := 0x03FC } 0x0000 [(0x1000, 0x0002), (0x03FC, 0x3000), (0x03FE, 0x0010)])) =
    some true := by decide

/-- Vector Y8. -/
theorem test_rtt : seen (fun t => (t.tracePending, t.psw))
    (step (start { regs0 with sp := 0x03FC } 0x0000 [(0x1000, 0x0006), (0x03FC, 0x3000), (0x03FE, 0x0010)])) =
    some (false, 0x0010) := by decide

/-- Vector Y5. -/
theorem test_bpt : seen (fun t => (t.regs.pc, t.regs.sp, t.psw))
    (step (start regs0 0x0004 [(0x1000, 0x0003), (0x000C, 0x200C), (0x000E, 0x00E0)])) =
    some (0x200C, 0x03FC, 0x00E0) := by decide

/-- Vector Y6. -/
theorem test_iot : seen (fun t => t.regs.pc)
    (step (start regs0 0x0000 [(0x1000, 0x0004), (0x0010, 0x2010), (0x0012, 0x00E0)])) = some 0x2010 := by decide

/-- Vector Y10. -/
theorem test_emt : seen (fun t => t.regs.pc)
    (step (start regs0 0x0000 [(0x1000, 0x88FF), (0x0018, 0x2018), (0x001A, 0x00E0)])) = some 0x2018 := by decide

/-- Vector Y11. -/
theorem test_trap : seen (fun t => (t.regs.pc, t.regs.sp, t.memValue .word 0x03FC))
    (step (start regs0 0x0000 [(0x1000, 0x8900), (0x001C, 0x201C), (0x001E, 0x00E0)])) =
    some (0x201C, 0x03FC, 0x1002) := by decide

/-- Vector Y-NOP. -/
theorem test_nop : seen (fun t => (t.psw, t.regs.pc)) (step (start regs0 0x00EF [(0x1000, 0x00A0)])) =
    some (0x00EF, 0x1002) := by decide

/-- Vector Y-CLC. -/
theorem test_clc : seen (fun t => t.psw) (step (start regs0 0x00EF [(0x1000, 0x00A1)])) = some 0x00EE := by decide

/-- Vector Y-CLV. -/
theorem test_clv : seen (fun t => t.psw) (step (start regs0 0x00EF [(0x1000, 0x00A2)])) = some 0x00ED := by decide

/-- Vector Y-CLZ. -/
theorem test_clz : seen (fun t => t.psw) (step (start regs0 0x00EF [(0x1000, 0x00A4)])) = some 0x00EB := by decide

/-- Vector Y-CLN. -/
theorem test_cln : seen (fun t => t.psw) (step (start regs0 0x00EF [(0x1000, 0x00A8)])) = some 0x00E7 := by decide

/-- Vector Y-CCC. -/
theorem test_ccc : seen (fun t => t.psw) (step (start regs0 0x00EF [(0x1000, 0x00AF)])) = some 0x00E0 := by decide

/-- Vector Y-SE0. -/
theorem test_se0 : seen (fun t => (t.psw, t.regs.pc)) (step (start regs0 0x00EF [(0x1000, 0x00B0)])) =
    some (0x00EF, 0x1002) := by decide

/-- Vector Y-SEC. -/
theorem test_sec : seen (fun t => t.psw) (step (start regs0 0x00E0 [(0x1000, 0x00B1)])) = some 0x00E1 := by decide

/-- Vector Y-SEV. -/
theorem test_sev : seen (fun t => t.psw) (step (start regs0 0x00E0 [(0x1000, 0x00B2)])) = some 0x00E2 := by decide

/-- Vector Y-SEZ. -/
theorem test_sez : seen (fun t => t.psw) (step (start regs0 0x00E0 [(0x1000, 0x00B4)])) = some 0x00E4 := by decide

/-- Vector Y-SEN. -/
theorem test_sen : seen (fun t => t.psw) (step (start regs0 0x00E0 [(0x1000, 0x00B8)])) = some 0x00E8 := by decide

/-- Vector Y-SCC. -/
theorem test_scc : seen (fun t => t.psw) (step (start regs0 0x00E0 [(0x1000, 0x00BF)])) = some 0x00EF := by decide

/-- Vector Y-SEC_SEZ. -/
theorem test_sezc : seen (fun t => t.psw) (step (start regs0 0x00E0 [(0x1000, 0x00B5)])) = some 0x00E5 := by decide

/-- Vector Y-SEN_SEV. -/
theorem test_senv : seen (fun t => t.psw) (step (start regs0 0x00E0 [(0x1000, 0x00BA)])) = some 0x00EA := by decide

/-- Vector Y12. -/
theorem test_clvc : seen (fun t => t.psw) (step (start regs0 0x001F [(0x1000, 0x00A3)])) = some 0x001C := by decide

/-- Vector Y-R0007. -/
theorem test_reserved0007 : seen (fun t => (t.regs.pc, t.memValue .word 0x03FC, t.memValue .word 0x03FE))
    (step (start regs0 0x0002 [(0x1000, 0x0007), (0x0008, 0x2008), (0x000A, 0x00E0)])) =
    some (0x2008, 0x1002, 0x0002) := by decide

/-- Vector Y-R7A00. -/
theorem test_reserved7A00 : seen (fun t => t.regs.pc)
    (step (start regs0 0x0002 [(0x1000, 0x7A00), (0x0008, 0x2008), (0x000A, 0x00E0)])) = some 0x2008 := by decide

/-- Vector Y-RFFFF. -/
theorem test_reservedF000 : seen (fun t => t.regs.pc)
    (step (start regs0 0x0002 [(0x1000, 0xFFFF), (0x0008, 0x2008), (0x000A, 0x00E0)])) = some 0x2008 := by decide

/-! ### Addressing modes: the table of step sizes (W2) and vectors A6 to A18 -/

/-- The location a specifier gives, and a register after it. -/
def resolved (sz : Size) (o : Operand) (r : Reg) (s : State) : Option (Loc × Word) :=
  match resolve sz o s with
  | .ok l t => some (l, t.reg r)
  | .error _ _ => none

/-- W2, rows 1, 2, 5 and 6. -/
theorem test_stepByOperandSize :
    let up := start { regs0 with r2 := 0x2000 } 0 []
    let down := start { regs0 with r2 := 0x2002 } 0 []
    resolved .word ⟨.autoInc, .r2⟩ .r2 up = some (.mem 0x2000, 0x2002) ∧
    resolved .byte ⟨.autoInc, .r2⟩ .r2 up = some (.mem 0x2000, 0x2001) ∧
    resolved .word ⟨.autoDec, .r2⟩ .r2 down = some (.mem 0x2000, 0x2000) ∧
    resolved .byte ⟨.autoDec, .r2⟩ .r2 down = some (.mem 0x2001, 0x2001) := by decide

/-- W2, rows 3, 4 and 7. -/
theorem test_stepOfStackAndPc :
    resolved .byte ⟨.autoInc, .sp⟩ .sp (start regs0 0 []) = some (.mem 0x0400, 0x0402) ∧
    resolved .byte ⟨.autoInc, .pc⟩ .pc (start { regs0 with pc := 0x1002 } 0 []) = some (.mem 0x1002, 0x1004) ∧
    resolved .byte ⟨.autoDec, .sp⟩ .sp (start regs0 0 []) = some (.mem 0x03FE, 0x03FE) := by decide

/-- W2, rows 8 and 9; vectors A7 and A11. -/
theorem test_deferredStepsByTwo :
    resolved .byte ⟨.autoIncDeferred, .r2⟩ .r2 (start { regs0 with r2 := 0x2000 } 0 [(0x2000, 0x3001)]) =
      some (.mem 0x3001, 0x2002) ∧
    resolved .byte ⟨.autoDecDeferred, .r2⟩ .r2 (start { regs0 with r2 := 0x2002 } 0 [(0x2000, 0x3000)]) =
      some (.mem 0x3000, 0x2000) := by decide

/-- Vectors A13, A14, A17 and A18: the index wraps, and PC counts as it stands after the index word. -/
theorem test_indexModes :
    let s (x : Word) := start { regs0 with r2 := 0x2002, pc := 0x1002 } 0 [(0x1002, x), (0x2000, 0x3000)]
    resolved .word ⟨.index, .r2⟩ .pc (s 0xFFFE) = some (.mem 0x2000, 0x1004) ∧
    resolved .word ⟨.indexDeferred, .r2⟩ .pc (s 0xFFFE) = some (.mem 0x3000, 0x1004) ∧
    resolved .word ⟨.index, .pc⟩ .pc (s 0x0FFC) = some (.mem 0x2000, 0x1004) ∧
    resolved .word ⟨.indexDeferred, .pc⟩ .pc (s 0x0FFC) = some (.mem 0x3000, 0x1004) := by decide

/-- R78, R101 and R183: the immediate of MOVB #0x7F, R0 is one 2-byte read, as the opcode is; INCB of an immediate then
writes its one byte. -/
theorem test_byteImmediateIsAWordRead :
    let s (op : Word) := start regs0 0 [(0x1000, op), (0x1002, 0x017F)]
    seen (fun t => (t.regs.r0, t.calls.take 2)) (step (s 0x95C0)) =
      some (0x007F, [.read 0x1002 .word, .read 0x1000 .word]) ∧
    seen (fun t => (t.memValue .word 0x1002, t.calls.take 3)) (step (s 0x8A97)) =
      some (0x0180, [.write 0x1002 .byte 0x0080, .read 0x1002 .word, .read 0x1000 .word]) := by decide

/-! ### Memory -/

/-- What an action answers, if it is not stopped. -/
def valueOf {α : Type} : EStateM.Result Stop State α → Option α
  | .ok v _ => some v
  | .error _ _ => none

/-- R71 to R74: the low byte at the even address; a word at 0xFFFF is the word at 0xFFFE. -/
theorem test_wordBytes :
    let s := start regs0 0 [(0xFFFE, 0x1234)]
    s.memByte 0xFFFE = 0x34 ∧ s.memByte 0xFFFF = 0x12 ∧
    valueOf (memRead .word 0xFFFF s) = some 0x1234 := by decide

/-- Writing what an unlisted byte reads removes the cell. -/
theorem test_memoryCanonical :
    Memory.write (Memory.write (Memory.write [] 5 1) 3 2) 5 0 = [(3, 2)] ∧
    Memory.wf (Memory.write (Memory.write [] 5 1) 3 2) = true ∧ Memory.wf [(3, 0)] = false := by decide

/-- R85: the bank selects the windows. -/
theorem test_mapper :
    let m : Mapper := ⟨[⟨0x0000, 0x1000, 0x10000⟩], [⟨0x0800, 0x0800, 0x20000⟩]⟩
    let s := { start regs0 0 [] with params := { Config.base with mapper := m } }
    s.phys 0x0FFF = 0x10FFF ∧ s.phys 0x1000 = 0x1000 ∧ { s with bank := .priv }.phys 0x0800 = 0x20000 := by decide

/-! ### Exceptions -/

/-- The vectors the scenarios use, each with its handler at 0x2000 above it and PSW 0x00E0. -/
def vectors : List (Word × Word) :=
  [(0x0004, 0x2004), (0x0006, 0x00E0), (0x000C, 0x200C), (0x000E, 0x00E0), (0x0014, 0x2014), (0x0016, 0x00E0),
   (0x0038, 0x2038), (0x003A, 0x00E0), (0x0040, 0x2040), (0x0042, 0x00E0)] ++
  [(0x006C, 0x206C), (0x006E, 0x00E0), (0x0078, 0x2078), (0x007A, 0x00E0), (0x0110, 0x2110), (0x0112, 0x00E0),
   (0x0120, 0x2120), (0x0122, 0x00E0)]

/-- The words an entry pushes, and what it installs. -/
def entry (t : State) : Word × Word × Word × Word × Word :=
  (t.memValue .word 0x03FE, t.memValue .word 0x03FC, t.regs.sp, t.regs.pc, t.psw)

/-- The fault a step answers. -/
def faultOf : Host.Outcome State Fault Refusal → Option Fault
  | .fault r => some r
  | _ => none

/-- A part of the state an arbiter call leaves where it takes a trap. -/
def taken {α : Type} (f : State → α) : Arbitration → Option α
  | .taken t => some (f t)
  | _ => none

/-- A part of the state an arbiter call leaves where it takes none. -/
def passed {α : Type} (f : State → α) : Arbitration → Option α
  | .idle t => some (f t)
  | _ => none

/-- E1, step 1: the failed write undoes the autoincrement. -/
theorem test_abort :
    seen (fun t => (t.regs.r1, t.regs.pc, t.busFaultPending, t.busFaultCount))
      (step { start { regs0 with r1 := 0x2000 } 0 [(0x1000, 0x145F), (0x1002, 0xFFF0), (0x2000, 0x1111)] with
        answers := [.memory, .memory, .memory, .fail] }) = some (0x2000, 0x1000, true, 1) := by decide

/-- E2: the other FAULT_PC_POLICY. -/
theorem test_abortAfterFetch :
    seen (fun t => (t.regs.r1, t.regs.pc))
      (step { start { regs0 with r1 := 0x2000 } 0 [(0x1000, 0x145F), (0x1002, 0xFFF0), (0x2000, 0x1111)] with
        params := { Config.base with faultPc := .afterFetch }
        answers := [.memory, .memory, .memory, .fail] }) = some (0x2000, 0x1002) := by decide

/-- E1, step 2: the bus-fault trap. -/
theorem test_busFaultTrap :
    seen (fun t => (entry t, t.busFaultPending, t.busFaultCount))
      (step { start regs0 0 vectors with busFaultPending := true, busFaultCount := 1 }) =
    some ((0x0000, 0x1000, 0x03FC, 0x2004, 0x00E0), false, 1) := by decide

/-- E4, step 2: the double fault. -/
theorem test_doubleFault :
    seen (fun t => (t.doubleFault, t.busFaultCount, t.regs.sp, t.regs.pc, t.psw))
      (step { start regs0 0 vectors with busFaultPending := true, busFaultCount := 1, answers := [.fail] }) =
    some (true, 2, 0x0400, 0x1000, 0x0000) := by decide

/-- E5: a failure inside TRAP's own sequence aborts the TRAP. -/
theorem test_trapAborted :
    seen (fun t => (t.regs.sp, t.regs.pc, t.busFaultPending, t.mem == (start regs0 0 [(0x1000, 0x8900)]).mem))
      (step { start regs0 0 [(0x1000, 0x8900)] with answers := [.memory, .memory, .memory, .fail] }) =
    some (0x0400, 0x1000, true, true) := by decide

/-- E6: the trace latch, and its trap. -/
theorem test_trace :
    seen (fun t => (t.regs.r0, t.tracePending)) (step (start regs0 0x0010 [(0x1000, 0x0A80)])) = some (1, true) ∧
    seen (fun t => (entry t, t.tracePending)) (step { start regs0 0x0010 vectors with tracePending := true }) =
      some ((0x0010, 0x1000, 0x03FC, 0x200C, 0x00E0), false) := by decide

/-- E8: a request of priority 4 at PRI 3 and at PRI 4. -/
theorem test_basePriority :
    seen entry (step { start regs0 0x0060 vectors with irqState := 1 }) =
      some (0x0060, 0x1000, 0x03FC, 0x2038, 0x00E0) ∧
    seen (fun t => t.regs.pc) (step { start regs0 0x0080 (vectors ++ [(0x1000, 0x00A0)]) with irqState := 1 }) =
      some 0x1002 := by decide

/-- E9: priority 7 is taken at PRI 6 and not at PRI 7. -/
theorem test_basePrioritySeven :
    seen (fun t => t.regs.pc) (step { start regs0 0x00C0 vectors with irqState := 12 }) = some 0x206C ∧
    seen (fun t => t.regs.pc) (step { start regs0 0x00E0 (vectors ++ [(0x1000, 0x00A0)]) with irqState := 12 }) =
      some 0x1002 := by decide

/-- E10 and E11: the acknowledge substitutes a vector; a misaligned one is the fault. -/
theorem test_acknowledge :
    seen (fun t => t.regs.pc)
      (step { start regs0 0 vectors with irqState := 3, irqAnswers := [⟨some 0x0110, none⟩] }) = some 0x2110 ∧
    faultOf (step { start regs0 0 vectors with irqState := 3, irqAnswers := [⟨some 0x0102, none⟩] }) =
      some (.vectorMisaligned 0x0102) := by decide

/-- E13: a request ends a wait, and an idle step holds the state. -/
theorem test_wait_ends :
    let s := { start { regs0 with pc := 0x1002 } 0 vectors with waitState := true }
    seen (fun t => (t.regs, t.psw, t.waitState)) (step s) = some (s.regs, s.psw, true) ∧
    seen (fun t => (entry t, t.waitState)) (step { s with inputs := [[.irq 1]] }) =
      some ((0x0000, 0x1002, 0x03FC, 0x2038, 0x00E0), false) := by decide

/-- An EXTENDED machine with HALT_VECTOR 0x0078, the example of X1; its bank follows H. -/
def ext (s : State) : State :=
  { s with params := Config.extended 0x0078, bank := if flagH s.psw then .priv else .nonpriv }

/-- X1: the halt pin, taken once. -/
theorem test_haltPin :
    seen (fun t => (entry t, t.bank)) (step { ext (start regs0 0x00E3 vectors) with haltLine := true }) =
      some ((0x00E3, 0x1000, 0x03FC, 0x2078, 0x01E0), .priv) ∧
    passed (fun t => t.regs) (arbitrate { ext (start regs0 0x01E0 vectors) with haltLine := true }) = some regs0 := by
  decide

/-- X2: the HALT instruction of EXTENDED. -/
theorem test_haltExtended :
    seen (fun t => (entry t, t.bank)) (step (ext (start regs0 0x0005 vectors))) =
      some ((0x0005, 0x1002, 0x03FC, 0x2078, 0x01E0), .priv) := by decide

/-- X3 and X4: power fail, and its two masks. -/
theorem test_powerFail :
    taken (fun t => (entry t, t.powerFailReq))
      (arbitrate { ext (start regs0 0x00C0 vectors) with powerFailReq := true }) =
      some ((0x00C0, 0x1000, 0x03FC, 0x2014, 0x00E0), false) ∧
    passed (fun t => t.powerFailReq) (arbitrate { ext (start regs0 0x01C0 vectors) with powerFailReq := true }) =
      some true ∧
    passed (fun t => (t.powerFailReq, t.eventLatch))
      (arbitrate { ext (start regs0 0x00E0 vectors) with powerFailReq := true, eventLatch := true }) =
      some (true, true) := by decide

/-- X5 and X6: an event in privileged mode pushes a PSW with H = 0; a vector may set H. -/
theorem test_event :
    taken (fun t => (entry t, t.eventLatch, t.bank))
      (arbitrate { ext (start regs0 0x0100 vectors) with eventLatch := true }) =
      some ((0x0000, 0x1000, 0x03FC, 0x2040, 0x00E0), false, .nonpriv) ∧
    taken (fun t => (t.psw, t.bank, t.calls.head?))
      (arbitrate { ext (start regs0 0x0000 [(0x0042, 0x01E0)]) with eventLatch := true }) =
      some (0x01E0, .priv, some (.bankSwitch .priv)) := by decide

/-- W5 and X7: the chain, in order. -/
theorem test_daisyChain :
    let s (a : Option Word) := { ext (start regs0 0 vectors) with
      virq := true, chain := [⟨true, a⟩, ⟨false, none⟩, ⟨true, some 0x0120⟩] }
    seen (fun t => (t.regs.pc, t.chain, t.virq)) (step (s (some 0x0110))) =
      some (0x2110, [⟨false, some 0x0110⟩, ⟨false, none⟩, ⟨true, some 0x0120⟩], true) ∧
    seen (fun t => t.regs.pc) (step (s none)) = some 0x2120 := by decide

/-- X8: a vector of 0 clears VIRQ and takes no trap; R547, form 1: it changes nothing else the arbiter reads. -/
theorem test_noVector :
    passed (fun t => (t.virq, t.regs, t.chain))
      (arbitrate { ext (start regs0 0 vectors) with virq := true, chain := [⟨true, some 0⟩] }) =
      some (false, regs0, [⟨true, some 0⟩]) := by decide

/-- X9: RTI leaves the privileged mode. -/
theorem test_rtiExtended :
    seen (fun t => (t.regs.pc, t.psw, t.regs.sp, t.bank, t.calls.head?))
      (step (ext (start { regs0 with sp := 0x03FC } 0x01E0 [(0x1000, 0x0002), (0x03FC, 0x1234), (0x03FE, 0x0005)]))) =
    some (0x1234, 0x0005, 0x0400, .nonpriv, some (.bankSwitch .nonpriv)) := by decide

/-- Y7: RESET calls the environment. -/
theorem test_reset :
    seen (fun t => (t.calls.head?, t.psw, t.regs.pc)) (step (start regs0 0x000F [(0x1000, 0x0005)])) =
      some (some .busReset, 0x000F, 0x1002) := by decide

/-! ### Reset -/

/-- Z1 and Z2: the program counter of each bank. -/
theorem test_resetPc :
    (List.range 8).map (fun b => (State.resetWith Config.base (BitVec.ofNat 3 b)).regs.pc) =
      [0xC000, 0x8000, 0x4000, 0x2000, 0x1000, 0x0000, 0xF600, 0xF400] := by decide

/-- R10: CHAIN is a parameter, and the reset machine is wired as it says. -/
theorem test_resetChain :
    (State.resetWith { Config.extended 0x0078 with chain := [⟨false, some 0x0110⟩, ⟨false, none⟩] } 4).chain =
      [⟨false, some 0x0110⟩, ⟨false, none⟩] := by decide

/-- Z6: a reset ends the double fault. -/
theorem test_resetEndsStuck :
    seen (fun t => (t.doubleFault, t.regs.pc))
      (step { start regs0 0 [(0x1000, 0x00A0)] with doubleFault := true, inputs := [[.reset 4]] }) =
    some (false, 0x1002) := by decide

/-! ### Witnesses: states and operands that meet the hypotheses of the statements -/

/-- What `taken` sees is in the state the arbiter answers. -/
theorem taken_exists {α : Type} {f : State → α} {a : Arbitration} {v : α} (h : taken f a = some v) :
    ∃ t, a = .taken t ∧ f t = v := by
  cases a <;> simp_all [taken]

/-- What `seen` sees is in the state answered. -/
theorem next_exists {α : Type} {f : State → α} {o : Host.Outcome State Fault Refusal} {v : α} (h : seen f o = some v) :
    ∃ t, o = .next t ∧ f t = v := by
  cases o <;> simp_all [seen]

/-- Registers that point into memory, and a stack. -/
def regsW : Regs := ⟨0x2000, 0x3000, 0x4000, 0x0001, 0x7FFF, 0x5000, 0x0400, 0x1002⟩

/-- The state taken as the start of an instruction: S0 holds its registers and its PSW. -/
def begun (s : State) : State := { s with start := s.snapshot }

/-- A BASE machine within an instruction, plain memory behind the bus. -/
def baseW : State := begun (start regsW 0x000F (vectors ++ [(0x2000, 0x8001), (0x3000, 0x1234), (0x0400, 0x6000)]))

/-- An EXTENDED machine within an instruction, H = 0. -/
def extW : State := begun (ext (start regsW 0x000F vectors))

/-- An EXTENDED machine within an instruction, in privileged mode. -/
def privW : State := begun (ext (start regsW 0x010F vectors))

/-- A machine whose next bus accesses are answered by a device and by memory. -/
def deviceW : State := { baseW with answers := [.device 0xABCD, .memory] }

/-- A machine whose second bus access fails. -/
def failW : State :=
  begun { start regsW 0x000F [(0x2000, 0x8001)] with answers := [.memory, .fail] }

theorem baseW_started : baseW.Started := ⟨rfl, rfl⟩
theorem extW_started : extW.Started := ⟨rfl, rfl⟩
theorem privW_started : privW.Started := ⟨rfl, rfl⟩
theorem baseW_plain : baseW.PlainBus := ⟨rfl, rfl⟩
theorem extW_plain : extW.PlainBus := ⟨rfl, rfl⟩
theorem baseW_serves : baseW.BusServes := ⟨rfl, by decide⟩
theorem extW_serves : extW.BusServes := ⟨rfl, by decide⟩
theorem deviceW_serves : deviceW.BusServes := ⟨rfl, by decide⟩
theorem baseW_inv : baseW.Inv := ⟨by decide, by decide, by decide, by decide, by decide⟩
theorem failW_inv : failW.Inv := ⟨by decide, by decide, by decide, by decide, by decide⟩
theorem extW_inv : extW.Inv := ⟨by decide, by decide, by decide, by decide, by decide⟩
theorem privW_inv : privW.Inv := ⟨by decide, by decide, by decide, by decide, by decide⟩

/-- The first and the last word of a RESERVED row, and specifiers at the end of their range. -/
theorem witness_DecodeOfEncode :
    Instr.wf (.reserved7000 0x7000) = true ∧ Instr.wf (.reserved7000 0x77FF) = true ∧
    Instr.wf (.mov ⟨.index, .pc⟩ ⟨.indexDeferred, .sp⟩) = true := by decide

/-- An even PC, an odd PC, the privileged mode, and a device answer. -/
theorem witness_StepRunsDecodedInstruction :
    (baseW.Undisturbed ∧ baseW.nextAnswer = .memory) ∧
    (start { regsW with pc := 0x1001 } 0 []).Undisturbed ∧ privW.Undisturbed ∧
    (deviceW.Undisturbed ∧ deviceW.nextAnswer = .device 0xABCD) :=
  ⟨⟨⟨rfl, rfl, rfl, rfl⟩, rfl⟩, ⟨rfl, rfl, rfl, rfl⟩, ⟨rfl, rfl, rfl, rfl⟩, ⟨rfl, rfl, rfl, rfl⟩, rfl⟩

theorem witness_FailedFetchAborts :
    { baseW with answers := [.fail] }.Undisturbed ∧ { baseW with answers := [.fail] }.nextAnswer = .fail :=
  ⟨⟨rfl, rfl, rfl, rfl⟩, rfl⟩

/-- A one-word row, and the longest instruction. -/
theorem witness_PlacedWordRunsAfterReset :
    decodeTableWord 16 0xFFFF = some (.reservedF000 0xFFFF) ∧
    decodeTableWord 48 0x000400021C72 = some (.mov ⟨.index, .r1⟩ ⟨.index, .r2⟩) := by decide

theorem witness_StuckUntilReset :
    let s := { baseW with doubleFault := true, inputs := [[.irq 1]] }
    s.doubleFault = true ∧ s.NoReset := ⟨rfl, by unfold State.NoReset; decide⟩

/-- A request that PRI 7 masks, and one that ends the wait. -/
theorem witness_WaitHoldsUntilTrap :
    (let s := { baseW with psw := 0x00E0, waitState := true, inputs := [[.irq 12]] }
     s.waitState = true ∧ s.NoReset ∧ s.doubleFault = false ∧ ∃ t, arbitrate s.takeInputs = .idle t) ∧
    (let s := { baseW with waitState := true, inputs := [[.irq 12]] }
     s.waitState = true ∧ s.NoReset ∧ ∃ t, step s = .next t ∧ t.waitState = false) :=
  ⟨⟨rfl, by unfold State.NoReset; decide, rfl, _, rfl⟩, rfl, by unfold State.NoReset; decide, _, rfl, rfl⟩

/-- BASE, and EXTENDED with a request that no peripheral backs or that one answers with 0. -/
theorem witness_IdleArbiterChangesNothing :
    (∃ t, arbitrate baseW = .idle t) ∧
    ∀ a ∈ [none, some 0],
      ∃ t, arbitrate { extW with virq := true, chain := [⟨true, a⟩] } = .idle t ∧ t.virq = false := by
  refine ⟨⟨_, rfl⟩, fun a h => ?_⟩
  obtain rfl | rfl : a = none ∨ a = some 0 := by simpa using h
  all_goals exact ⟨_, rfl, rfl⟩

theorem witness_OnlyMisalignedVectorsStop :
    (∃ f, step { baseW with irqState := 3, irqAnswers := [⟨some 0x0102, none⟩], psw := 0 } = .fault f) ∧
    (let s := { extW with params := Config.extended 0x0079 }
     s.extended = true ∧ s.params.haltVector &&& 3 ≠ 0 ∧ ∃ f, exec .halt s = .fault f) :=
  ⟨⟨_, rfl⟩, rfl, by decide, _, rfl⟩

/-- A step that counts a failure. -/
theorem witness_FaultCountNeverFalls :
    let s := { baseW with answers := [.fail] }
    s.NoReset ∧ ∃ t, step s = .next t ∧ t.busFaultCount = 1 := ⟨by unfold State.NoReset; decide, _, rfl, rfl⟩

theorem witness_ResetValues :
    Config.extendedOpen.variant = .extended ∧ Config.extendedOpen.initialPc = Config.initialPcTable := ⟨rfl, rfl⟩

/-- BASE, EXTENDED and privileged, each with a step. -/
theorem witness_StepKeepsInvariant :
    (baseW.Inv ∧ ∃ t, step baseW = .next t) ∧ (extW.Inv ∧ ∃ t, step extW = .next t) ∧
    (privW.Inv ∧ ∃ t, step privW = .next t) :=
  ⟨⟨baseW_inv, _, rfl⟩, ⟨extW_inv, _, rfl⟩, privW_inv, _, rfl⟩

/-- A stuck and waiting machine; EXTENDED with the halt pin low and high. -/
theorem witness_ResetOfRunningMachine :
    (let s := { baseW with doubleFault := true, waitState := true, inputs := [[.reset 4]] }
     s.inputs = [.reset 4] :: [] ∧ (s.extended = true → s.haltLine = false)) ∧
    (let s := { privW with inputs := [[.reset 7], []] }
     s.inputs = [.reset 7] :: [[]] ∧ s.extended = true ∧ s.haltLine = false) ∧
    (let s := { privW with haltLine := true, inputs := [[.reset 0]] }
     s.inputs = [.reset 0] :: [] ∧ s.extended = true ∧ s.haltLine = true) := by decide

/-- The top of the address space, at an odd address. -/
theorem witness_StoreThenRead :
    baseW.PlainBus ∧ baseW.mem.wf = true ∧
    baseW.phys (alignWord 0xFFFF) ≠ baseW.phys (alignWord 0xFFFF + 1) := ⟨baseW_plain, by decide, by decide⟩

theorem witness_OddWordsAndFailures :
    baseW.params.oddWord = .align ∧
    ({ Config.base with oddWord := .fault }.oddWord = .fault ∧ (0xFFFF : Word).getLsbD 0 = true) ∧
    { baseW with answers := [.fail] }.nextAnswer = .fail := by decide

theorem witness_ModeLocations : baseW.PlainBus ∧ extW.PlainBus := ⟨baseW_plain, extW_plain⟩

/-- A specifier with an operand word, and one without. -/
theorem witness_OperandWords :
    (baseW.reg .pc).getLsbD 0 = false ∧ (∃ l t, resolve .word ⟨.indexDeferred, .pc⟩ baseW = .ok l t) ∧
    ∃ l t, resolve .byte ⟨.autoDec, .sp⟩ baseW = .ok l t :=
  ⟨by decide, ⟨_, _, rfl⟩, _, _, rfl⟩

/-- A byte immediate that memory answers, one that a device answers, and one whose read fails. -/
theorem witness_ImmediateOperands :
    (baseW.reg .pc).getLsbD 0 = false ∧ baseW.PlainBus ∧
    (let t (s : State) := s.setReg .pc (s.reg .pc + 2)
     valueOf (memRead .word 0x1002 (t deviceW)) = some 0xABCD ∧
     (∃ u, memRead .word 0x1002 (t { baseW with answers := [.fail] }) = .error .busFailure u)) :=
  ⟨by decide, baseW_plain, by decide, _, rfl⟩

theorem witness_TwoOperandResults : baseW.BusServes ∧ deviceW.BusServes := ⟨baseW_serves, deviceW_serves⟩
theorem witness_MoveResults : baseW.BusServes ∧ deviceW.BusServes := ⟨baseW_serves, deviceW_serves⟩
theorem witness_ReadOnlyResults : baseW.BusServes ∧ deviceW.BusServes := ⟨baseW_serves, deviceW_serves⟩
theorem witness_SingleOperandResults : baseW.BusServes ∧ deviceW.BusServes := ⟨baseW_serves, deviceW_serves⟩

theorem witness_TransferResults :
    baseW.BusServes ∧ (⟨.deferred, .r1⟩ : Operand).mode ≠ .register ∧
    (⟨.autoIncDeferred, .sp⟩ : Operand).mode ≠ .register := ⟨baseW_serves, by decide, by decide⟩

/-- The first and the last operator, and a PSW with every implemented bit set. -/
theorem witness_SystemResults :
    (.nop, false, 0x0) ∈ ccForms ∧ (.scc, true, 0xF) ∈ ccForms ∧ pswFits .extended 0x01FF = true ∧
    pswFits .base 0x00FF = true := by decide

theorem witness_TrapInstructionsEnter :
    (baseW.BusServes ∧ baseW.extended = false) ∧
    (extW.BusServes ∧ extW.extended = true ∧ extW.params.haltVector &&& 3 = 0) :=
  ⟨⟨baseW_serves, rfl⟩, extW_serves, rfl, by decide⟩

theorem witness_ReservedInstructionsTrap : baseW.BusServes ∧ extW.BusServes := ⟨baseW_serves, extW_serves⟩
theorem witness_TrapReturnResults : baseW.BusServes ∧ extW.BusServes := ⟨baseW_serves, extW_serves⟩

/-- Vectors at both ends of the address space. -/
theorem witness_BaseTrapEntry :
    baseW.PlainBus ∧ baseW.extended = false ∧ (0x0000 : Word) &&& 3 = 0 ∧ (0xFFFC : Word) &&& 3 = 0 :=
  ⟨baseW_plain, rfl, by decide, by decide⟩

/-- The handler's PSW has H = 0 through one vector and H = 1 through the other. -/
theorem witness_ExtendedTrapEntry :
    (extW.PlainBus ∧ extW.extended = true ∧ (0x0040 : Word) &&& 3 = 0 ∧
      flagH (extW.memValue .word 0x0042) = false) ∧
    (let s := begun (ext (start regsW 0x0100 [(0x0042, 0x01E0)]))
     s.PlainBus ∧ s.extended = true ∧ flagH (s.memValue .word 0x0042) = true) :=
  ⟨⟨extW_plain, rfl, by decide, by decide⟩, ⟨rfl, rfl⟩, rfl, by decide⟩

theorem witness_HaltPathEntry :
    extW.PlainBus ∧ extW.extended = true ∧ extW.params.haltVector &&& 3 = 0 := ⟨extW_plain, rfl, by decide⟩

theorem witness_TrapReturnRoundTrip :
    (baseW.PlainBus ∧ baseW.Inv ∧ (0x0038 : Word) &&& 3 = 0 ∧ flagH baseW.psw = false ∧
      ∀ a b, baseW.phys a = baseW.phys b → a = b) ∧
    (extW.PlainBus ∧ extW.Inv ∧ flagH extW.psw = false ∧ (∀ a b, extW.phys a = extW.phys b → a = b) ∧
      extW.extended = true ∧ flagH (extW.memValue .word 0x0042) = false) :=
  ⟨⟨baseW_plain, baseW_inv, by decide, by decide, fun _ _ h => BitVec.eq_of_toNat_eq h⟩,
    extW_plain, extW_inv, by decide, fun _ _ h => BitVec.eq_of_toNat_eq h, rfl, by decide⟩

/-- One instruction of each clause, storing to memory and to a register. -/
theorem witness_WordWriteFrame :
    baseW.Started ∧ (∃ t, exec (.mov ⟨.autoInc, .r0⟩ ⟨.autoDec, .r0⟩) baseW = .next t) ∧
    (∃ t, exec (.sub ⟨.register, .r4⟩ ⟨.index, .sp⟩) baseW = .next t) ∧
    (∃ t, exec (.xor .r4 ⟨.deferred, .r1⟩) baseW = .next t) ∧
    (∃ t, exec (.ror ⟨.autoIncDeferred, .r0⟩) baseW = .next t) ∧
    ∃ t, exec (.sxt ⟨.register, .pc⟩) baseW = .next t :=
  ⟨baseW_started, ⟨_, rfl⟩, ⟨_, rfl⟩, ⟨_, rfl⟩, ⟨_, rfl⟩, _, rfl⟩

theorem witness_ByteWriteFrame :
    baseW.Started ∧ (∃ t, exec (.bisb ⟨.register, .r3⟩ ⟨.autoInc, .r0⟩) baseW = .next t) ∧
    (∃ t, exec (.mfps ⟨.autoDec, .sp⟩) baseW = .next t) ∧ (∃ t, exec (.aslb ⟨.deferred, .r1⟩) baseW = .next t) ∧
    (∃ t, exec (.incb ⟨.register, .r4⟩) baseW = .next t) ∧
    (¬ stepsReg ⟨.autoInc, .r0⟩ .r4 ∧ ∃ t, exec (.bicb ⟨.autoInc, .r0⟩ ⟨.register, .r4⟩) baseW = .next t) :=
  ⟨baseW_started, ⟨_, rfl⟩, ⟨_, rfl⟩, ⟨_, rfl⟩, ⟨_, rfl⟩, by unfold stepsReg; decide, _, rfl⟩

theorem witness_ReadOnlyFrame :
    baseW.Started ∧ (∃ t, exec (.cmpb ⟨.autoInc, .r0⟩ ⟨.autoInc, .r0⟩) baseW = .next t) ∧
    (∃ t, exec (.bit ⟨.register, .r4⟩ ⟨.deferred, .r1⟩) baseW = .next t) ∧
    (∃ t, exec (.tst ⟨.autoDecDeferred, .r1⟩) baseW = .next t) ∧
    ∃ t, exec (.mtps ⟨.register, .r4⟩) baseW = .next t :=
  ⟨baseW_started, ⟨_, rfl⟩, ⟨_, rfl⟩, ⟨_, rfl⟩, _, rfl⟩

theorem witness_TransferFrame :
    baseW.Started ∧ (⟨.autoIncDeferred, .sp⟩ : Operand).mode ≠ .register ∧
    (∃ t, exec (.jmp ⟨.autoIncDeferred, .sp⟩) baseW = .next t) ∧
    (∃ t, exec (.jsr .pc ⟨.autoIncDeferred, .sp⟩) baseW = .next t) ∧ (∃ t, exec (.rts .r5) baseW = .next t) ∧
    (∃ t, exec (.mark 63) baseW = .next t) ∧ ∃ t, exec (.sob .r3 63) baseW = .next t :=
  ⟨baseW_started, by decide, ⟨_, rfl⟩, ⟨_, rfl⟩, ⟨_, rfl⟩, ⟨_, rfl⟩, _, rfl⟩

theorem witness_ExceptionFrame :
    (baseW.Started ∧ baseW.extended = false ∧ (∃ t, exec .halt baseW = .next t) ∧
      (∃ t, exec (.jmp ⟨.register, .r1⟩) baseW = .next t)) ∧
    (privW.Started ∧ privW.extended = true ∧ (∃ t, exec .bpt privW = .next t) ∧ (∃ t, exec .halt privW = .next t) ∧
      (Instr.reserved0E00 0x0E00).row.mnemonic = "RESERVED" ∧
      (∃ t, exec (.reserved0E00 0x0E00) privW = .next t) ∧ ∃ t, exec .rti privW = .next t) :=
  ⟨⟨baseW_started, rfl, ⟨_, rfl⟩, _, rfl⟩, privW_started, rfl, ⟨_, rfl⟩, ⟨_, rfl⟩, rfl, ⟨_, rfl⟩, _, rfl⟩

/-- A machine whose trap sequence fails at its second push, when the first push has been written. -/
def secondPushFailsW : State := begun { start regsW 0x000F vectors with answers := [.memory, .memory, .memory, .fail] }

/-- An instruction that completes, one that a failure aborts and that takes no trap, and one aborted within its trap. -/
theorem witness_AbortIsAtomic :
    (baseW.Inv ∧ baseW.Started ∧ ∃ t, exec (.inc ⟨.autoInc, .r0⟩) baseW = .next t ∧ t.busFaultCount = 0) ∧
    (failW.Inv ∧ failW.Started ∧ (sequenceOf (.inc ⟨.autoInc, .r0⟩) failW).isNone = true ∧
      ∃ t, exec (.inc ⟨.autoInc, .r0⟩) failW = .next t ∧ t.busFaultCount = 1) ∧
    (secondPushFailsW.Inv ∧ secondPushFailsW.Started ∧ (sequenceOf .bpt secondPushFailsW).isSome = true ∧
      ∃ t, exec .bpt secondPushFailsW = .next t ∧ (t.busFaultCount, t.memValue .word 0x03FE) = (1, 0x000F)) :=
  ⟨⟨baseW_inv, baseW_started, next_exists (by decide)⟩, ⟨failW_inv, ⟨rfl, rfl⟩, rfl, next_exists (by decide)⟩,
    ⟨by decide, by decide, by decide, by decide, by decide⟩, ⟨rfl, rfl⟩, rfl, next_exists (by decide)⟩

theorem witness_PriorityKept :
    privW.Inv ∧ installsPsw (.sub ⟨.register, .r3⟩ ⟨.register, .r4⟩) = false ∧ privW.Started ∧
    ∃ t, exec (.sub ⟨.register, .r3⟩ ⟨.register, .r4⟩) privW = .next t := ⟨privW_inv, by decide, privW_started, _, rfl⟩

/-- An execution, an execution with the shadows frozen, a trap, and an idle step. -/
theorem witness_ShadowsFollow :
    (∃ t, coreStep baseW = (.executed, .next t)) ∧
    ((∃ t, coreStep privW = (.executed, .next t)) ∧ privW.extended = true ∧ flagH privW.psw = true) ∧
    (∃ t, coreStep { baseW with tracePending := true } = (.trapTaken, .next t)) ∧
    ∃ t, coreStep { baseW with waitState := true } = (.idle, .next t) :=
  ⟨⟨_, rfl⟩, ⟨⟨_, rfl⟩, rfl, by decide⟩, ⟨_, rfl⟩, _, rfl⟩

theorem witness_BusFaultTrapFirst :
    { baseW with busFaultPending := true, tracePending := true, psw := 0x00E0 }.BusServes ∧
    { privW with busFaultPending := true, haltLine := true }.BusServes := ⟨⟨rfl, by decide⟩, rfl, by decide⟩

/-- A machine whose bus-fault trap is about to be taken, with answers to its accesses. -/
def faultingW (s : State) (answers : List BusAnswer) : State := { s with busFaultPending := true, answers := answers }

/-- The state in which the bus-fault trap of the state stops. -/
def trapStop (s : State) : Option (Stop × Word) :=
  match trap 0x0004 { s with busFaultPending := false } with
  | .ok _ _ => none
  | .error e u => some (e, u.busFaultCount)

/-- The first and the last of the four accesses fail, in either variant; an odd SP under FAULT. -/
theorem witness_DoubleFaultOnlyThere :
    (let s := faultingW baseW [.fail]
     s.doubleFault = false ∧ s.busFaultPending = true ∧ .fail ∈ s.answers.take 4 ∧
     trapStop s = some (.busFailure, 1) ∧ seen State.doubleFault (coreStep s).2 = some true) ∧
    (let s := faultingW privW [.memory, .device 0x2004, .memory, .fail]
     s.doubleFault = false ∧ s.busFaultPending = true ∧ .fail ∈ s.answers.take 4 ∧
     trapStop s = some (.busFailure, 1) ∧ seen State.doubleFault (coreStep s).2 = some true) ∧
    (let s := faultingW { baseW with params := { Config.base with oddWord := .fault }, regs := { regsW with sp := 1 } } []
     s.busFaultPending = true ∧ s.params.oddWord = .fault ∧ (s.reg .sp).getLsbD 0 = true ∧
     trapStop s = some (.busFailure, 1) ∧ seen State.doubleFault (coreStep s).2 = some true) := by decide

/-- An EXTENDED machine with an event, whose trap sequence fails at its second push. -/
def pushFailsW : State := { extW with eventLatch := true, answers := [.memory, .memory, .memory, .fail] }

theorem witness_AbortedSequenceKeepsRequest :
    pushFailsW.Inv ∧ pushFailsW.busFaultPending = false ∧
    ∃ t, arbitrate pushFailsW = .taken t ∧ t.busFaultPending = true :=
  ⟨⟨by decide, by decide, by decide, by decide, by decide⟩, rfl, taken_exists (by decide)⟩

/-- Each clause: trace; a request of priority 4 at PRI 3, aligned and not, and at PRI 4; no request. -/
theorem witness_BaseArbiter :
    (baseW.params.variant = .base ∧ baseW.busFaultPending = false ∧ baseW.BusServes ∧ baseW.irqEntry = none) ∧
    ({ baseW with tracePending := true }.BusServes ∧ baseW.params.baseTrace = true) ∧
    (let s := { baseW with irqState := 1, psw := 0x0060 }
     s.irqEntry = some ⟨4, 0x0038⟩ ∧ priority s.psw < 4 ∧ s.nextIrqAnswer.vector.getD 0x0038 &&& 3 = 0) ∧
    (let s := { baseW with irqState := 1, psw := 0x0060, irqAnswers := [⟨some 0x0102, none⟩] }
     s.irqEntry = some ⟨4, 0x0038⟩ ∧ priority s.psw < 4 ∧ s.nextIrqAnswer.vector.getD 0x0038 &&& 3 ≠ 0) ∧
    (let s := { baseW with irqState := 1, psw := 0x0080 }
     s.irqEntry = some ⟨4, 0x0038⟩ ∧ ¬ priority s.psw < 4) :=
  ⟨⟨rfl, rfl, baseW_serves, by decide⟩, ⟨⟨rfl, by decide⟩, rfl⟩, by decide, by decide, by decide⟩

/-- The rungs of the ladder, in order; each state fails the tests before its own. -/
theorem witness_ExtendedLadder :
    (extW.params.variant = .extended ∧ extW.busFaultPending = false ∧ extW.BusServes ∧ extW.virq = false) ∧
    { extW with tracePending := true }.tracePending = true ∧
    (let s := { extW with haltLine := true }
     s.tracePending = false ∧ s.haltLine = true ∧ flagH s.psw = false ∧ s.params.haltVector &&& 3 = 0) ∧
    (let s := { privW with haltLine := true, psw := 0x01E0 }
     ¬ (s.haltLine = true ∧ flagH s.psw = false) ∧ priority s.psw = 7) ∧
    (let s := { extW with powerFailReq := true, psw := 0x00C0 }
     priority s.psw ≠ 7 ∧ s.powerFailReq = true ∧ flagH s.psw = false) ∧
    (let s := { privW with powerFailReq := true, eventLatch := true }
     ¬ (s.powerFailReq = true ∧ flagH s.psw = false) ∧ s.eventLatch = true) ∧
    (let s (a : Option Word) := { extW with virq := true, chain := [⟨true, a⟩] }
     (s none).chainVector = none ∧ (s (some 0)).chainVector = some 0 ∧ (s (some 0x0110)).chainVector = some 0x0110 ∧
     (0x0110 : Word) &&& 3 = 0 ∧ (s (some 0x0112)).chainVector = some 0x0112 ∧ (0x0112 : Word) &&& 3 ≠ 0) :=
  ⟨⟨rfl, rfl, extW_serves, rfl⟩, rfl, by decide, by decide, by decide, by decide, by decide⟩

/-- A decliner and an idle peripheral before the one that answers, with a vector or with 0, and a pending one after
it; and a chain of decliners. -/
theorem witness_ChainWalk :
    (let before : List Peripheral := [⟨true, none⟩, ⟨false, some 0x0100⟩]
     let answering : Peripheral := ⟨true, some 0x0110⟩
     let zero : Peripheral := ⟨true, some 0⟩
     let later : List Peripheral := [⟨true, some 0x0120⟩]
     let s := { extW with chain := before ++ answering :: later }
     s.chain = before ++ answering :: later ∧ answering.pending = true ∧ zero.pending = true ∧ zero.answer = some 0 ∧
     ∀ q ∈ before, q.pending = false ∨ q.answer = none) ∧
    ∀ q ∈ { extW with chain := [⟨true, none⟩, ⟨false, some 0x0100⟩] }.chain, q.pending = false ∨ q.answer = none := by
  decide

/-- Each turn of the loop: stuck, waiting, a trap, an instruction, a misaligned vector. -/
theorem witness_RunIsASequenceOfSteps :
    (∃ t, coreStep { baseW with doubleFault := true }.takeInputs = (.stuck, .next t)) ∧
    (∃ t, coreStep { baseW with waitState := true }.takeInputs = (.idle, .next t)) ∧
    (∃ t, coreStep { baseW with tracePending := true }.takeInputs = (.trapTaken, .next t)) ∧
    (∃ t, coreStep baseW.takeInputs = (.executed, .next t)) ∧
    (∃ k f, coreStep { baseW with irqState := 3, irqAnswers := [⟨some 0x0102, none⟩], psw := 0 }.takeInputs =
      (k, .fault f)) ∧
    (∃ used t, run 1 baseW = .next (used, t)) ∧ ∃ used t, run 5 { baseW with doubleFault := true } = .next (used, t) :=
  ⟨⟨_, rfl⟩, ⟨_, rfl⟩, ⟨_, rfl⟩, ⟨_, rfl⟩, ⟨_, _, rfl⟩, ⟨_, _, rfl⟩, _, _, rfl⟩

end Sys2Proof.Tests
end

section
/-! PROOFS. What the arbiter and the core's turn can do, and one relation, `Progress`, that every instruction, every trap
sequence and the arbiter respect; the invariant, the failure count and the shadows follow from it. -/

namespace Sys2Proof.Machine

/-! ### The arbiter and the step, case by case -/

theorem takeAtBoundary_ne_idle {sequence : Act Unit} {after : State → State} {s t : State} :
    takeAtBoundary sequence after s ≠ .idle t := by
  unfold takeAtBoundary; split <;> nofun

theorem takeBusFault_ne_idle {s t : State} : takeBusFault s ≠ .idle t := by
  unfold takeBusFault; dsimp only; split <;> nofun

theorem arbitrateBase_idle {s t : State} (h : arbitrateBase s = .idle t) : t = s := by
  unfold arbitrateBase at h
  split at h
  · exact absurd h takeBusFault_ne_idle
  split at h
  · exact absurd h takeAtBoundary_ne_idle
  split at h
  · cases h; rfl
  split at h
  · exact absurd h takeAtBoundary_ne_idle
  · cases h; rfl

theorem arbitrateDevice_idle {s t : State} (h : arbitrateDevice s = .idle t) :
    t = s ∨ t = { s.ackChain with virq := false } := by
  unfold arbitrateDevice at h
  split at h
  · split at h
    · cases h; exact .inr rfl
    split at h
    · cases h; exact .inr rfl
    · exact absurd h takeAtBoundary_ne_idle
  · cases h; exact .inl rfl

theorem arbitrateExt_idle {s t : State} (h : arbitrateExt s = .idle t) :
    t = s ∨ t = { s.ackChain with virq := false } := by
  unfold arbitrateExt at h
  split at h
  · exact absurd h takeBusFault_ne_idle
  split at h
  · exact absurd h takeAtBoundary_ne_idle
  split at h
  · exact absurd h takeAtBoundary_ne_idle
  split at h
  · cases h; exact .inl rfl
  split at h
  · exact absurd h takeAtBoundary_ne_idle
  split at h
  · exact absurd h takeAtBoundary_ne_idle
  · exact arbitrateDevice_idle h

/-- An arbiter that takes no trap changes nothing, or has asked the chain in vain and cleared VIRQ. -/
theorem arbitrate_idle {s t : State} (h : arbitrate s = .idle t) : t = s ∨ t = { s.ackChain with virq := false } := by
  unfold arbitrate at h
  split at h
  · exact .inl (arbitrateBase_idle h)
  · exact arbitrateExt_idle h

/-- All a step of the core can do. -/
theorem coreStep_cases (s : State) :
    (s.doubleFault = true ∧ coreStep s = (.stuck, .next s)) ∨
    (s.doubleFault = false ∧ ∃ t, arbitrate s = .taken t ∧ coreStep s = (.trapTaken, .next t)) ∨
    (s.doubleFault = false ∧ ∃ r, arbitrate s = .fault r ∧ coreStep s = (.trapTaken, .fault r)) ∨
    (s.doubleFault = false ∧ ∃ t, arbitrate s = .idle t ∧ t.waitState = true ∧ coreStep s = (.idle, .next t)) ∨
    (s.doubleFault = false ∧ ∃ t, arbitrate s = .idle t ∧ t.waitState = false ∧
      coreStep s = (.executed, executeOne t)) := by
  unfold coreStep
  cases s.doubleFault
  · rcases arbitrate s with t | t | r
    · exact .inr (.inl ⟨rfl, t, rfl, rfl⟩)
    · cases hw : t.waitState
      · exact .inr (.inr (.inr (.inr ⟨rfl, t, rfl, hw, by simp [hw]⟩)))
      · exact .inr (.inr (.inr (.inl ⟨rfl, t, rfl, hw, by simp [hw]⟩)))
    · exact .inr (.inr (.inl ⟨rfl, r, rfl, rfl⟩))
  · exact .inl ⟨rfl, rfl⟩

/-! ### The relation -/

/-- The shadows are kept, CHAIN keeps its length, and no counted bus failure is forgotten. -/
structure Lasting (s t : State) : Prop where
  ppc   : t.ppc = s.ppc
  ppsw  : t.ppsw = s.ppsw
  chain : t.chain.length = s.chain.length
  count : s.busFaultCount ≤ t.busFaultCount

/-- An update that changes none of these four fields. -/
theorem Lasting.of_eq {s t : State} (ppc : t.ppc = s.ppc := by simp) (ppsw : t.ppsw = s.ppsw := by simp)
    (chain : t.chain = s.chain := by simp) (count : t.busFaultCount = s.busFaultCount := by simp) : Lasting s t :=
  ⟨ppc, ppsw, by rw [chain], count.ge⟩

theorem Lasting.refl (s : State) : Lasting s s := .of_eq rfl rfl rfl rfl

theorem Lasting.trans {s t u : State} (h : Lasting s t) (k : Lasting t u) : Lasting s u :=
  ⟨k.ppc.trans h.ppc, k.ppsw.trans h.ppsw, k.chain.trans h.chain, h.count.trans k.count⟩

theorem lasting_composes : Composes Lasting fun _ => Lasting := ⟨.refl, .trans, .trans⟩

theorem lasting_access : AccessRelated Lasting fun _ => Lasting where
  call _ _ := .of_eq rfl rfl rfl rfl
  failed _ := ⟨rfl, rfl, rfl, Nat.le_succ _⟩
  store _ _ _ _ := .of_eq

theorem lasting_setReg (r : Reg) (s : State) (v : Word) : Lasting s (s.setReg r v) := .of_eq rfl rfl rfl rfl

theorem relates_checkVector {R : State → State → Prop} (c : Composes R fun _ => R) (vec : Word) :
    Relates R (fun _ => R) (checkVector vec) := by
  constructor
  · intro s a t h
    unfold checkVector at h
    split at h <;> cases h
    exact c.refl s
  · intro s e t h
    unfold checkVector at h
    split at h <;> cases h
    exact c.refl s

/-- A trap sequence keeps the shadows, the chain and the count if what stands in its middle does. -/
theorem lasting_trapSequence (vec : Word) {middle : State → State} (mid : ∀ s, Lasting s (middle s)) :
    Relates Lasting (fun _ => Lasting) (trapSequence vec middle) := by
  have c := lasting_composes
  have read (a : Word) := relates_memRead c lasting_access.toReadRelated .word a
  have pushes (v : Word) := relates_push c lasting_access (lasting_setReg .sp) v
  unfold trapSequence
  refine relates_bind c (relates_checkVector c vec) fun _ => ?_
  refine relates_bind c (relates_update fun s => .of_eq) fun _ => ?_
  refine relates_bind c (read _) fun newPc => relates_bind c (read _) fun newPsw => ?_
  refine relates_bind c (relates_update mid) fun _ => relates_bind c (relates_look c _) fun _ => ?_
  refine relates_bind c (pushes _) fun _ => relates_bind c (relates_getReg c _) fun _ => ?_
  exact relates_bind c (pushes _) fun _ => relates_update fun s => .of_eq

theorem lasting_haltPath : Relates Lasting (fun _ => Lasting) haltPath := by
  have c := lasting_composes
  have read (a : Word) := relates_memRead c lasting_access.toReadRelated .word a
  have pushes (v : Word) := relates_push c lasting_access (lasting_setReg .sp) v
  unfold haltPath
  refine relates_bind c (relates_look c _) fun vec => relates_bind c (relates_checkVector c vec) fun _ => ?_
  refine relates_bind c (relates_look c _) fun _ => ?_
  refine relates_bind c (relates_update fun s => .of_eq rfl rfl rfl rfl) fun _ => ?_
  refine relates_bind c (read _) fun newPc => relates_bind c (read _) fun newPsw => ?_
  refine relates_bind c (pushes _) fun _ => relates_bind c (relates_getReg c _) fun _ => ?_
  exact relates_bind c (pushes _) fun _ => relates_update fun s => .of_eq rfl rfl rfl rfl

theorem lasting_trapReturn : Relates Lasting (fun _ => Lasting) trapReturn := by
  have c := lasting_composes
  have pops := relates_pop c lasting_access.toReadRelated (lasting_setReg .sp)
  unfold trapReturn
  exact relates_bind c pops fun _ => relates_bind c pops fun _ => relates_update fun s => .of_eq

/-- What every part of a step keeps: the invariant if it held, the parameters, the shadows, the length of CHAIN, and
every counted failure. -/
structure Progress (s t : State) : Prop extends Carries s t, Lasting s t

/-- An update of fields that neither the invariant nor `Lasting` sees. -/
theorem Progress.of_eq {s t : State} (params : t.params = s.params := by rfl) (mem : t.mem = s.mem := by rfl)
    (psw : t.psw = s.psw := by rfl) (ppsw : t.ppsw = s.ppsw := by rfl) (start : t.start = s.start := by rfl)
    (bank : t.bank = s.bank := by rfl) (ppc : t.ppc = s.ppc := by rfl)
    (chain : t.chain.length = s.chain.length := by rfl)
    (count : t.busFaultCount = s.busFaultCount := by rfl) : Progress s t where
  inv h := h.of_eq params mem psw ppsw start bank
  params := params
  ppc := ppc
  ppsw := ppsw
  chain := chain
  count := count.ge

theorem Progress.refl (s : State) : Progress s s := ⟨.refl s, .refl s⟩

theorem Progress.trans {s t u : State} (h : Progress s t) (k : Progress t u) : Progress s u :=
  ⟨h.toCarries.trans k.toCarries, h.toLasting.trans k.toLasting⟩

theorem progress_composes : Composes Progress fun _ => Progress := ⟨.refl, .trans, .trans⟩

theorem Relates.progress {α : Type} {m : Act α} (h : Relates Carries CarriesStop m)
    (k : Relates Lasting (fun _ => Lasting) m) : Relates Progress (fun _ => Progress) m :=
  ⟨fun e => ⟨h.ok e, k.ok e⟩, fun e => ⟨h.error e, k.error e⟩⟩

theorem progress_trapSequence (vec : Word) {middle : State → State} (mid : ∀ s, CarriesPsw s (middle s))
    (last : ∀ s, Lasting s (middle s)) : Relates Progress (fun _ => Progress) (trapSequence vec middle) :=
  (carries_trapSequence vec mid).progress (lasting_trapSequence vec last)

theorem progress_trap (vec : Word) : Relates Progress (fun _ => Progress) (trap vec) :=
  progress_trapSequence vec carriesPsw_composes.refl .refl

/-- Masking a PSW write to the implemented bits (R41) keeps each bit that agrees with a PSW of implemented bits. -/
theorem getLsbD_and_pswImpl {v : Variant} {p q : Word} {i : Nat} (fits : pswFits v p = true)
    (same : q.getLsbD i = p.getLsbD i) : (q &&& pswImpl v).getLsbD i = p.getLsbD i := by
  rw [BitVec.getLsbD_and, getLsbD_pswImpl, same]
  by_cases hi : i < pswTop v
  · simp [hi]
  · simp [hi, pswFits_iff.mp fits i (by omega)]

theorem State.Inv.writePsw {s : State} (h : s.Inv) {q : Word} (k : ∀ i, 8 ≤ i → q.getLsbD i = s.psw.getLsbD i) :
    (s.writePsw q).Inv :=
  h.setPsw fun i hi => getLsbD_and_pswImpl h.psw (k i hi)

/-- Every rule of an instruction respects `Progress`. -/
theorem progress_related : Related Progress Progress (fun _ => Progress) True where
  composes := progress_composes
  access :=
    { call := fun s c => ⟨carries_access.call s c, lasting_access.call s c⟩
      failed := fun s => ⟨carries_access.failed s, lasting_access.failed s⟩
      store := fun s sz a v => ⟨carries_access.store s sz a v, lasting_access.store s sz a v⟩ }
  setReg r s v := ⟨carries_setReg r s v, lasting_setReg r s v⟩
  same := .refl
  ends := .trans
  flags _ _ h := ⟨⟨fun i => i.setPsw fun k hk => h k (by omega), rfl⟩, .of_eq rfl rfl rfl rfl⟩
  operator _ _ h := ⟨⟨fun i => i.writePsw fun k hk => h k (by omega), rfl⟩, .of_eq rfl rfl rfl rfl⟩
  wait _ := .of_eq
  busReset _ := .of_eq
  mtps _ _ _ h := ⟨⟨fun i => i.setPsw h, rfl⟩, .of_eq rfl rfl rfl rfl⟩
  trap _ vec _ := progress_trap vec
  trapReturn _ := carries_trapReturn.progress lasting_trapReturn

theorem progress_haltPath {s : State} (he : s.extended = true) :
    (∀ a t, haltPath s = .ok a t → Progress s t) ∧ (∀ e t, haltPath s = .error e t → Progress s t) :=
  ⟨fun a t h => ⟨(carries_haltPath he).1 a t h, lasting_haltPath.ok h⟩,
    fun e t h => ⟨(carries_haltPath he).2 e t h, lasting_haltPath.error h⟩⟩

/-! ### An instruction -/

theorem progress_complete (s : State) (how : Completion) : Progress s (s.complete how) := .of_eq

theorem progress_abort (s : State) : Progress s s.abort :=
  ⟨⟨State.Inv.abort, by simp⟩, .of_eq⟩

theorem progress_abortFetch (s : State) : Progress s s.abortFetch := by
  unfold State.abortFetch
  exact ⟨⟨State.Inv.abortFetch, by simp⟩, .of_eq⟩

theorem progress_perform {how : Completion} {rule : Act Unit} {s t : State}
    (ok : ∀ a u, rule s = .ok a u → Progress s u) (stop : ∀ e u, rule s = .error e u → Progress s u)
    (h : perform how rule s = .next t) : Progress s t := by
  unfold perform at h
  split at h <;> cases h
  · exact (ok _ _ ‹_›).trans (progress_complete _ _)
  · exact (stop _ _ ‹_›).trans (progress_abort _)

theorem progress_exec {i : Instr} {s t : State} (h : exec i s = .next t) : Progress s t := by
  by_cases hh : i = .halt
  · subst hh
    change perform .ordinary (if s.extended then haltPath else trap Config.vecHaltInsn) s = .next t at h
    cases he : s.extended
    · rw [he] at h
      exact progress_perform (fun _ _ => (progress_trap _).ok) (fun _ _ => (progress_trap _).error) h
    · rw [he] at h
      exact progress_perform (progress_haltPath he).1 (progress_haltPath he).2 h
  · obtain ⟨how, rule, run, k⟩ := progress_related.exec i (fun _ => trivial) hh
    rw [run] at h
    exact progress_perform (fun _ _ => k.ok) (fun _ _ => k.error) h

theorem progress_fetchWord : Relates Progress (fun _ => Progress) fetchWord :=
  relates_fetchWord progress_composes progress_related.access.toReadRelated (progress_related.setReg .pc)

/-- From the start of an instruction to its end. -/
theorem progress_executeOne {s t : State} (h : executeOne s = .next t) : Progress s.begin t := by
  unfold executeOne at h
  split at h
  · exact (progress_fetchWord.ok ‹_›).trans (progress_exec h)
  · cases h
    exact (progress_fetchWord.error ‹_›).trans (progress_abortFetch _)
  · cases h

/-! ### The arbiter -/

theorem Progress.abortSequence {s t : State} (h : Progress s t) : Progress s (t.abortSequence s) where
  inv i := ((h.inv i).restore s.snapshot (by rw [h.params]; exact i.psw)).of_eq rfl rfl rfl rfl rfl rfl
  params := by simp [State.abortSequence, h.params]
  ppc := by simp [State.abortSequence, h.ppc]
  ppsw := by simp [State.abortSequence, h.ppsw]
  chain := by simp [State.abortSequence, h.chain]
  count := by simpa [State.abortSequence] using h.count

theorem progress_takeAtBoundary {sequence : Act Unit} {after : State → State} {s t : State}
    (ok : ∀ a u, sequence s = .ok a u → Progress s u) (stop : ∀ e u, sequence s = .error e u → Progress s u)
    (done : ∀ u, Progress u (after u)) (h : takeAtBoundary sequence after s = .taken t) : Progress s t := by
  unfold takeAtBoundary at h
  split at h <;> cases h
  · exact (ok _ _ ‹_›).trans (done _)
  · exact (stop _ _ ‹_›).abortSequence

theorem progress_takeTrap {vec : Word} {after : State → State} {s t : State}
    (h : takeAtBoundary (trap vec) after s = .taken t) (done : ∀ u, Progress u (after u)) : Progress s t :=
  progress_takeAtBoundary (fun _ _ => (progress_trap vec).ok) (fun _ _ => (progress_trap vec).error) done h

theorem progress_takeTrace {s t : State} (h : takeTrace s = .taken t) : Progress s t :=
  progress_takeTrap h fun _ => .of_eq

theorem progress_takeBusFault {s t : State} (h : takeBusFault s = .taken t) : Progress s t := by
  have start : Progress s { s with busFaultPending := false } := .of_eq
  unfold takeBusFault at h
  dsimp only at h
  split at h <;> cases h
  · exact start.trans ((progress_trap _).ok ‹_›)
  · have stop := ((progress_trap _).error ‹_›).abortSequence
    exact start.trans (stop.trans .of_eq)

/-- The walk of the chain loses no peripheral. -/
theorem walkChain_length (ps : List Peripheral) (k : Nat) : (walkChain ps k).2.1.length = ps.length := by
  induction ps generalizing k with
  | nil => rfl
  | cons p ps ih =>
    unfold walkChain
    split
    · split
      · rfl
      · simp [ih]
    · simp [ih]

theorem progress_ackChain (s : State) : Progress s s.ackChain :=
  .of_eq (chain := walkChain_length s.chain 0)

theorem progress_arbitrateBase {s t : State} (h : arbitrateBase s = .taken t) : Progress s t := by
  unfold arbitrateBase at h
  split at h
  · exact progress_takeBusFault h
  split at h
  · exact progress_takeTrace h
  split at h
  · cases h
  split at h
  · exact .trans .of_eq (progress_takeTrap h .refl)
  · cases h

theorem progress_arbitrateDevice {s t : State} (h : arbitrateDevice s = .taken t) : Progress s t := by
  have seq (v : Word) : Relates Progress (fun _ => Progress) (vectoredInterrupt v) :=
    progress_trapSequence v (fun _ => ⟨⟨fun i => i.of_eq rfl rfl rfl rfl rfl rfl, rfl⟩, rfl⟩)
      fun _ => .of_eq rfl rfl rfl rfl
  unfold arbitrateDevice at h
  split at h
  · split at h
    · cases h
    · split at h
      · cases h
      · exact (progress_ackChain s).trans
          (progress_takeAtBoundary (fun _ _ => (seq _).ok) (fun _ _ => (seq _).error) .refl h)
  · cases h

theorem progress_arbitrateExt {s t : State} (he : s.extended = true) (h : arbitrateExt s = .taken t) :
    Progress s t := by
  unfold arbitrateExt at h
  split at h
  · exact progress_takeBusFault h
  split at h
  · exact progress_takeTrace h
  split at h
  · exact progress_takeAtBoundary (progress_haltPath he).1 (progress_haltPath he).2 .refl h
  split at h
  · cases h
  split at h
  · exact progress_takeTrap h fun _ => .of_eq
  split at h
  · exact progress_takeTrap h fun _ => .of_eq
  · exact progress_arbitrateDevice h

/-- The arbiter's turn, whether it takes a trap or not. -/
theorem progress_arbitrate {s t : State} (h : arbitrate s = .taken t ∨ arbitrate s = .idle t) : Progress s t := by
  rcases h with h | h
  · unfold arbitrate at h
    split at h
    · exact progress_arbitrateBase h
    · exact progress_arbitrateExt (by simp [State.extended, *]) h
  · rcases arbitrate_idle h with rfl | rfl
    · exact .refl _
    · exact (progress_ackChain s).trans .of_eq

end Sys2Proof.Machine
end

section
/-! PROOFS. The environment's turn, the start of an instruction and the core's turn, put together to a step. -/

namespace Sys2Proof.Machine

/-! ### The start of an instruction -/

/-- The shadows and S0 are copies of the PSW, so they hold the bits it holds. -/
theorem State.Inv.begin {s : State} (h : s.Inv) : s.begin.Inv := by
  unfold State.begin State.sampleShadows
  split
  · exact ⟨h.memory, h.psw, h.ppsw, h.psw, h.bank⟩
  · exact ⟨h.memory, h.psw, h.psw, h.psw, h.bank⟩

@[simp] theorem begin_params (s : State) : s.begin.params = s.params := by
  unfold State.begin State.sampleShadows; split <;> rfl

@[simp] theorem begin_chain (s : State) : s.begin.chain = s.chain := by
  unfold State.begin State.sampleShadows; split <;> rfl

@[simp] theorem begin_busFaultCount (s : State) : s.begin.busFaultCount = s.busFaultCount := by
  unfold State.begin State.sampleShadows; split <;> rfl

/-! ### Reset -/

/-- A state with the PSW and the shadows of a reset, in the bank of the unprivileged mode. -/
theorem inv_of_reset {s : State} (memory : s.mem.wf = true) (psw : s.psw = Config.initialPsw) (ppsw : s.ppsw = 0)
    (start : s.start.psw = Config.initialPsw) (bank : s.bank = .nonpriv) : s.Inv := by
  have fits (v : Variant) : pswFits v Config.initialPsw = true := by cases v <;> rfl
  refine ⟨memory, psw ▸ fits _, ?_, start ▸ fits _, ?_⟩
  · rw [ppsw]; simp [pswFits]
  · rw [bank, psw, show flagH Config.initialPsw = false from rfl, Bool.and_false]; rfl

/-- BASE is in the unprivileged bank always; a reset of EXTENDED switches to it. -/
theorem State.Inv.coreReset {s : State} (h : s.Inv) (b : BitVec 3) : (s.coreReset b).Inv := by
  unfold State.coreReset
  split
  · exact inv_of_reset h.memory rfl rfl rfl rfl
  next he =>
    refine inv_of_reset h.memory rfl rfl rfl ?_
    have bank := h.bank
    rwa [Bool.eq_false_iff.mpr he, Bool.false_and] at bank

theorem coreReset_params (s : State) (b : BitVec 3) : (s.coreReset b).params = s.params := by
  unfold State.coreReset; dsimp only; split <;> rfl

theorem coreReset_chain (s : State) (b : BitVec 3) : (s.coreReset b).chain = s.chain := by
  unfold State.coreReset; dsimp only; split <;> rfl

/-! ### The environment's turn -/

/-- An input that is no reset drives a line, a peripheral or a byte of memory. -/
theorem progress_applyInput (s : State) {i : EnvInput} (h : ∀ b, i ≠ .reset b) : Progress s (applyInput s i) := by
  cases i with
  | irq | haltLine | eventEdge | powerFail | virq => simp only [applyInput]; split <;> exact .of_eq
  | peripheral k p => exact .of_eq (chain := List.length_set)
  | store a v =>
    exact ⟨⟨fun i => ⟨Memory.wf_write i.memory a v, i.psw, i.ppsw, i.start, i.bank⟩, rfl⟩, .of_eq rfl rfl rfl rfl⟩
  | reset b => exact absurd rfl (h b)

theorem applyInput_keeps (s : State) (i : EnvInput) :
    Carries s (applyInput s i) ∧ (applyInput s i).chain.length = s.chain.length := by
  by_cases h : ∃ b, i = .reset b
  · obtain ⟨b, rfl⟩ := h
    exact ⟨⟨fun i => i.coreReset b, coreReset_params s b⟩, congrArg List.length (coreReset_chain s b)⟩
  · have k := progress_applyInput s fun b e => h ⟨b, e⟩
    exact ⟨k.toCarries, k.chain⟩

/-- What every input of the batch keeps, the environment's turn keeps. -/
theorem takeInputs_induction {C : State → Prop} {s : State} (start : C { s with inputs := s.inputs.tail })
    (turn : ∀ u, C u → ∀ i ∈ s.inputs.headD [], C (applyInput u i)) : C s.takeInputs :=
  List.foldlRecOn _ _ start turn

theorem takeInputs_keeps (s : State) : Carries s s.takeInputs ∧ s.takeInputs.chain.length = s.chain.length :=
  takeInputs_induction (C := fun u => Carries s u ∧ u.chain.length = s.chain.length)
    ⟨⟨fun i => i.of_eq rfl rfl rfl rfl rfl rfl, rfl⟩, rfl⟩
    fun u k i _ => ⟨k.1.trans (applyInput_keeps u i).1, (applyInput_keeps u i).2.trans k.2⟩

theorem progress_takeInputs {s : State} (h : s.NoReset) : Progress s s.takeInputs :=
  takeInputs_induction (C := Progress s) .of_eq fun u k _ hi =>
    k.trans (progress_applyInput u fun b e => h b (e ▸ hi))

/-! ### A step of the core -/

/-- The core's turn, of any kind: all of `Progress` but the shadows, which an instruction's start may sample. -/
theorem coreStep_keeps {s t : State} (h : (coreStep s).2 = .next t) :
    Carries s t ∧ t.chain.length = s.chain.length ∧ s.busFaultCount ≤ t.busFaultCount := by
  have of_progress {u : State} (k : Progress s u) :
      Carries s u ∧ u.chain.length = s.chain.length ∧ s.busFaultCount ≤ u.busFaultCount :=
    ⟨k.toCarries, k.chain, k.count⟩
  rcases coreStep_cases s with ⟨-, e⟩ | ⟨-, u, a, e⟩ | ⟨-, r, -, e⟩ | ⟨-, u, a, -, e⟩ | ⟨-, u, a, -, e⟩ <;> rw [e] at h
  · cases h; exact of_progress (.refl s)
  · cases h; exact of_progress (progress_arbitrate (.inl a))
  · cases h
  · cases h; exact of_progress (progress_arbitrate (.inr a))
  · have before := progress_arbitrate (.inr a)
    have start : Carries u u.begin := ⟨State.Inv.begin, begin_params u⟩
    have after := progress_executeOne h
    refine ⟨before.toCarries.trans (start.trans after.toCarries), ?_, ?_⟩
    · rw [after.chain, begin_chain, before.chain]
    · exact before.count.trans ((begin_busFaultCount u).ge.trans after.count)

/-- The arbiter that lets an instruction start has not touched what the shadows sample. -/
theorem arbitrate_idle_begin {s t : State} (h : arbitrate s = .idle t) :
    t.begin.ppc = (if s.extended && flagH s.psw then s.ppc else s.reg .pc) ∧
    t.begin.ppsw = (if s.extended && flagH s.psw then s.ppsw else s.psw) := by
  have sampled (u : State) : u.begin.ppc = (if u.extended && flagH u.psw then u.ppc else u.reg .pc) ∧
      u.begin.ppsw = (if u.extended && flagH u.psw then u.ppsw else u.psw) := by
    unfold State.begin State.sampleShadows
    split <;> exact ⟨rfl, rfl⟩
  rcases arbitrate_idle h with rfl | rfl
  · exact sampled t
  · exact sampled _

end Sys2Proof.Machine
end

section
open Sys2Proof Sys2Proof.Machine

/-- Settles O15: the reset PSW has H = 0, and the bank is the unprivileged one. -/
theorem resetMeetsInvariant : Obligations.ResetMeetsInvariant := by
  intro p b
  exact inv_of_reset rfl rfl rfl rfl rfl

/-- Settles O16: the environment's inputs keep the invariant one by one, and the core's turn by `Progress`. -/
theorem stepKeepsInvariant : Obligations.StepKeepsInvariant := by
  intro s t inv h
  obtain ⟨env, envChain⟩ := takeInputs_keeps s
  obtain ⟨core, coreChain, -⟩ := coreStep_keeps h
  exact ⟨core.inv (env.inv inv), core.params.trans env.params, coreChain.trans envChain⟩

/-- Settles O13: without a reset among them the inputs leave the count alone, and the core's turn never lowers it. -/
theorem faultCountNeverFalls : Obligations.FaultCountNeverFalls := by
  intro s t noReset h
  obtain ⟨-, -, count⟩ := coreStep_keeps h
  exact (progress_takeInputs noReset).count.trans count

/-- Settles O53: the shadows are sampled at the start of an instruction and by nothing else. -/
theorem shadowsFollow : Obligations.ShadowsFollow := by
  intro s t h
  have held {u : State} (k : Progress s u) : u.ppc = s.ppc ∧ u.ppsw = s.ppsw := ⟨k.ppc, k.ppsw⟩
  rcases coreStep_cases s with ⟨-, e⟩ | ⟨-, u, a, e⟩ | ⟨-, r, -, e⟩ | ⟨-, u, a, -, e⟩ | ⟨-, u, a, -, e⟩ <;> rw [e] at h ⊢
  · simp at h
  · obtain rfl : u = t := by simpa using h
    exact ⟨fun k => absurd k.1 nofun, fun _ => held (progress_arbitrate (.inl a))⟩
  · simp at h
  · obtain rfl : u = t := by simpa using h
    exact ⟨fun k => absurd k.1 nofun, fun _ => held (progress_arbitrate (.inr a))⟩
  · have run : executeOne u = .next t := by simpa using h
    have ends := progress_executeOne run
    obtain ⟨ppc, ppsw⟩ := arbitrate_idle_begin a
    rw [ends.ppc, ends.ppsw, ppc, ppsw]
    by_cases frozen : s.extended = true ∧ flagH s.psw = true <;> simp [frozen]

end

section
/-! PROOFS. The PSW bits above the condition codes, and the high byte of a register that a byte instruction writes. -/

namespace Sys2Proof.Machine

/-! ### The PSW bits above the condition codes -/

/-- What a rule that installs no PSW keeps until its end. -/
structure PswUntouched (s t : State) : Prop where
  params : t.params = s.params
  psw    : t.psw = s.psw
  start  : t.start = s.start

/-- S0 is kept, and so are the PSW bits above the condition codes, of a PSW of implemented bits. -/
structure UpperKept (s t : State) : Prop where
  start : t.start = s.start
  upper : pswFits s.params.variant s.psw = true → ∀ k, 4 ≤ k → t.psw.getLsbD k = s.psw.getLsbD k

theorem pswUntouched_composes : Composes PswUntouched fun _ s t => t.start = s.start where
  refl _ := ⟨rfl, rfl, rfl⟩
  trans h k := ⟨k.params.trans h.params, k.psw.trans h.psw, k.start.trans h.start⟩
  stop h k := k.trans h.start

/-- The rule of an instruction that installs no PSW writes condition codes alone; the operators mask what they write,
which changes nothing in a PSW of implemented bits (spec/10_state.md R41). -/
theorem upperKept_related : Related PswUntouched UpperKept (fun _ s t => t.start = s.start) False where
  composes := pswUntouched_composes
  access :=
    { call := fun _ _ => ⟨rfl, rfl, rfl⟩
      failed := fun _ => rfl
      store := fun _ _ _ _ => ⟨by simp, by simp, by simp⟩ }
  setReg _ _ _ := ⟨rfl, rfl, rfl⟩
  same _ := ⟨rfl, fun _ _ _ => rfl⟩
  ends {s t u} h k := by
    refine ⟨k.start.trans h.start, fun fits i hi => ?_⟩
    rw [k.upper (by rw [h.params, h.psw]; exact fits) i hi, h.psw]
  flags _ _ h := ⟨rfl, fun _ => h⟩
  operator _ _ h := ⟨rfl, fun fits i hi => getLsbD_and_pswImpl fits (h i hi)⟩
  wait _ := ⟨rfl, fun _ _ _ => rfl⟩
  busReset _ := ⟨rfl, fun _ _ _ => rfl⟩
  mtps := False.elim
  trap := False.elim
  trapReturn := False.elim

/-! ### The high byte of a register destination -/

/-- The rule writes the low byte of the register and the PSW, and cannot be stopped. -/
def WritesLowByte (r : Reg) (rule : Act Unit) : Prop :=
  ∀ s : State, ∃ v q, rule s = .ok () ((s.setReg r (joinBytes (highByte (s.reg r)) v)).setPsw q)

theorem writesLowByte_readModifyWrite (r : Reg) (f : Word → Word → Word × Word) :
    WritesLowByte r (readModifyWrite .byte ⟨.register, r⟩ f) := fun _ => ⟨_, _, rfl⟩

theorem writesLowByte_writeOnly (r : Reg) (f : Word → Word × Word) :
    WritesLowByte r (writeOnly .byte ⟨.register, r⟩ f) := fun _ => ⟨_, _, rfl⟩

theorem WritesLowByte.highByte {r : Reg} {rule : Act Unit} (k : WritesLowByte r rule) {s t : State}
    (h : perform .ordinary rule s = .next t) : highByte (t.reg r) = Machine.highByte (s.reg r) := by
  obtain ⟨v, q, run⟩ := k s
  rw [perform_ok run] at h
  cases h
  show Machine.highByte ((s.setReg r _).reg r) = _
  rw [setReg_reg_same, highByte_joinBytes]

/-- A source that does not step the register is read first; if that read fails, the abort restores the register. -/
theorem WritesLowByte.highByte_after_source {r : Reg} {src : Operand} {rest : Word → Act Unit}
    (k : ∀ v, WritesLowByte r (rest v)) (hr : r ≠ .pc) (hsrc : ¬ stepsReg src r) {s t : State} (started : s.Started)
    (h : perform .ordinary (readOperand .byte src >>= rest) s = .next t) :
    Machine.highByte (t.reg r) = Machine.highByte (s.reg r) := by
  have source := quiet_readOperand (touched := fun q => q = .pc ∨ stepsReg src q) (.inl rfl) .byte src fun _ => .inr
  rcases read : readOperand .byte src s with ⟨v, u⟩ | ⟨e, u⟩
  · have same : u.reg r = s.reg r := (source.ok read).regs r (by simp [hr, hsrc])
    have run : perform .ordinary (rest v) u = .next t := by rw [← h]; unfold perform; rw [act_bind_ok read]
    rw [(k v).highByte run, same]
  · obtain ⟨rfl, stopped⟩ := source.error read
    unfold perform at h
    rw [act_bind_error read] at h
    cases h
    have same : u.abort.reg r = s.reg r := by
      rw [State.reg, abort_regs, Regs.get_set_ne _ _ hr, stopped.rest.start, started.reg hr]
    rw [same]

end Sys2Proof.Machine
end

section
open Sys2Proof Sys2Proof.Machine

/-- Settles O52: an abort restores the PSW of the start, which is the PSW the instruction runs on. -/
theorem priorityKept : Obligations.PriorityKept := by
  intro i s t inv installs started h
  have notHalt : i ≠ .halt := by rintro rfl; cases installs
  obtain ⟨how, rule, run, k⟩ := upperKept_related.exec i (fun e => by simp [installs] at e) notHalt
  rw [run] at h
  unfold perform at h
  split at h <;> cases h
  next ended => exact (k.ok ended).upper inv.psw
  next stopped =>
    intro i _
    rw [abort_psw, k.error stopped, started.psw]

/-- Settles O47: each rule's frame is the one of its operand shape; a register destination gets a new low byte. -/
theorem byteWriteFrame : Obligations.ByteWriteFrame := by
  intro src dst s t started
  refine ⟨?_, ?_, ?_, ?_, ?_⟩
  · rintro (h | h | h)
    · exact (keeps_after_source fun _ _ => storeByte_keeps).frame (.inl rfl) started h
    all_goals
      exact (keeps_after_source fun _ _ => readModifyWrite_keeps fun _ => changes_logicFlags _ _).frame (.inl rfl)
        started h
  · rintro (h | h | h)
    · exact (storeByte_keeps (v := Size.byte.trim s.psw)).frame (.inl rfl) started h
    · exact (readModifyWrite_keeps (changes_inc .byte)).frame (.inl rfl) started h
    · exact (readModifyWrite_keeps (changes_dec .byte)).frame (.inl rfl) started h
  · have modify {f : Word → Word → Word × Word} (hf : ∀ x, Changes flagsNZVC fun p => (f x p).2)
        (h : perform .ordinary (readModifyWrite .byte dst f) s = .next t) :=
      (readModifyWrite_keeps hf).frame (.inl rfl) started h
    rintro (h | h | h | h | h | h | h | h | h)
    · exact (writeOnly_keeps changes_clr).frame (.inl rfl) started h
    · exact modify (f := comResult .byte) (changes_com .byte) h
    · exact modify (f := negResult .byte) (fun x => changes_subFlags .byte 0 x fun _ => false) h
    · exact modify (f := adcResult .byte) (fun x => changes_addFlags .byte x 0 flagC) h
    · exact modify (f := sbcResult .byte) (fun x => changes_subFlags .byte x 0 flagC) h
    · exact modify (f := rorResult .byte) (fun x => changes_shiftFlags .byte (fun p => (rorResult .byte x p).1) _) h
    · exact modify (f := rolResult .byte) (fun x => changes_shiftFlags .byte (fun p => (rolResult .byte x p).1) _) h
    · exact modify (f := asrResult .byte) (fun x => changes_shiftFlags .byte (fun p => (asrResult .byte x p).1) _) h
    · exact modify (f := aslResult .byte) (fun x => changes_shiftFlags .byte (fun p => (aslResult .byte x p).1) _) h
  · rintro r - rfl (h | h | h | h | h | h | h | h | h | h | h)
    · exact (writesLowByte_writeOnly r _).highByte h
    all_goals exact (writesLowByte_readModifyWrite r _).highByte h
  · rintro r hr hsrc rfl (h | h)
    all_goals
      exact WritesLowByte.highByte_after_source (fun v => writesLowByte_readModifyWrite r _) hr hsrc started h

end

section
/-! PROOFS. What a store to plain memory leaves at the addresses it wrote, and how an access runs on a bus that plain
memory answers, or fails. -/

namespace Sys2Proof.Machine

/-! ### The bytes a store leaves -/

theorem lowByte_zeroExtend (w : Word) : (lowByte w).zeroExtend 16 = w &&& 0x00FF := by
  apply BitVec.eq_of_toNat_eq
  have mask : w.toNat &&& 0x00FF = w.toNat % 256 := Nat.and_two_pow_sub_one_eq_mod w.toNat 8
  have fits : w.toNat % 256 < 65536 := by omega
  simpa [lowByte, mask] using Nat.mod_eq_of_lt fits

theorem highByte_zeroExtend (w : Word) : (highByte w).zeroExtend 16 = w >>> 8 := by
  apply BitVec.eq_of_toNat_eq
  have bound := w.isLt
  simp only [highByte, BitVec.zeroExtend, BitVec.toNat_setWidth, BitVec.extractLsb'_toNat, BitVec.toNat_ushiftRight,
    Nat.shiftRight_eq_div_pow]
  omega

theorem alignWord_alignWord (a : Word) : alignWord (alignWord a) = alignWord a := by
  simp [alignWord, BitVec.and_assoc]

theorem storeMem_byte_memByte {s : State} (wf : s.mem.wf = true) (a v : Word) :
    (s.storeMem .byte a v).memByte a = lowByte v := by
  rw [State.memByte, storeMem_phys, storeMem_byte_mem, Memory.read_write_same wf]

theorem storeMem_word_memByte_high {s : State} (wf : s.mem.wf = true) (a v : Word) :
    (s.storeMem .word a v).memByte (a + 1) = highByte v := by
  rw [State.memByte, storeMem_phys, storeMem_word_mem, Memory.read_write_same (Memory.wf_write wf _ _)]

/-- The high byte is written after the low one, so the low one stays only where the mapper keeps the two apart. -/
theorem storeMem_word_memByte_low {s : State} (wf : s.mem.wf = true) {a : Word} (apart : s.phys a ≠ s.phys (a + 1))
    (v : Word) : (s.storeMem .word a v).memByte a = lowByte v := by
  rw [State.memByte, storeMem_phys, storeMem_word_mem, Memory.read_write_ne _ _ apart.symm, Memory.read_write_same wf]

/-! ### Plain memory answers -/

theorem State.PlainBus.nextAnswer {s : State} (h : s.PlainBus) : s.nextAnswer = .memory := by
  rw [State.nextAnswer, h.answers]; rfl

theorem State.PlainBus.busServes {s : State} (h : s.PlainBus) : s.BusServes :=
  ⟨h.aligns, by simp [h.answers]⟩

theorem State.PlainBus.afterCall {s : State} (h : s.PlainBus) (c : EnvCall) : (s.afterCall c).PlainBus :=
  ⟨h.aligns, by simp [h.answers]⟩

theorem State.PlainBus.storeMem {s : State} (h : s.PlainBus) (sz : Size) (a v : Word) : (s.storeMem sz a v).PlainBus :=
  ⟨by simp [h.aligns], by simp [h.answers]⟩

theorem State.PlainBus.memRead {s : State} (h : s.PlainBus) (sz : Size) (a : Word) :
    memRead sz a s = .ok (s.memValue sz (accessAddr sz a)) (s.afterCall (.read (accessAddr sz a) sz)) := by
  rcases memRead_cases sz a s with ⟨k, -⟩ | ⟨-, k, -⟩ | ⟨-, -, k⟩ | ⟨_, -, k, -⟩
  · rw [h.busServes.oddFails] at k; cases k
  · rw [h.nextAnswer] at k; cases k
  · exact k
  · rw [h.nextAnswer] at k; cases k

theorem State.PlainBus.memWrite {s : State} (h : s.PlainBus) (sz : Size) (a v : Word) :
    memWrite sz a v s =
      .ok () ((s.afterCall (.write (accessAddr sz a) sz (sz.trim v))).storeMem sz (accessAddr sz a) v) := by
  rcases memWrite_cases sz a v s with ⟨k, -⟩ | ⟨-, k, -⟩ | ⟨-, -, k⟩ | ⟨_, -, k, -⟩
  · rw [h.busServes.oddFails] at k; cases k
  · rw [h.nextAnswer] at k; cases k
  · exact k
  · rw [h.nextAnswer] at k; cases k

/-- A byte read gives the byte of memory at its own address. -/
theorem State.PlainBus.memRead_byte {s : State} (h : s.PlainBus) {a v : Word} (byte : (s.memByte a).zeroExtend 16 = v) :
    ∃ u, Machine.memRead .byte a s = .ok v u := ⟨s.afterCall _, by rw [h.memRead, accessAddr, State.memValue, byte]⟩

/-- A word read joins the bytes at the even address and the one above it. -/
theorem State.PlainBus.memRead_word {s : State} (h : s.PlainBus) {a v : Word}
    (low : s.memByte (alignWord a) = lowByte v) (high : s.memByte (alignWord a + 1) = highByte v) :
    ∃ u, Machine.memRead .word a s = .ok v u ∧ u.mem = s.mem :=
  ⟨s.afterCall _, by rw [h.memRead, accessAddr, State.memValue, low, high, joinBytes_bytes], rfl⟩

/-- A byte store ends with its byte in memory and every other byte kept. -/
theorem State.PlainBus.memWrite_byte {s : State} (h : s.PlainBus) (wf : s.mem.wf = true) (a v : Word) :
    ∃ t, Machine.memWrite .byte a v s = .ok () t ∧ t.PlainBus ∧ t.memByte a = lowByte v ∧
      ∀ p, p ∉ s.storeBytes .byte a → t.mem.read p = s.mem.read p :=
  ⟨_, h.memWrite .byte a v, (h.afterCall _).storeMem _ _ _, storeMem_byte_memByte wf a v,
    fun _ => storeMem_read_other _ .byte a v⟩

/-- A word store ends with both its bytes in memory, where the mapper keeps them apart, and every other byte kept. -/
theorem State.PlainBus.memWrite_word {s : State} (h : s.PlainBus) (wf : s.mem.wf = true) {a : Word}
    (apart : s.phys (alignWord a) ≠ s.phys (alignWord a + 1)) (v : Word) :
    ∃ t, Machine.memWrite .word a v s = .ok () t ∧ t.PlainBus ∧ t.memByte (alignWord a) = lowByte v ∧
      t.memByte (alignWord a + 1) = highByte v ∧
      ∀ p, p ∉ s.storeBytes .word (alignWord a) → t.mem.read p = s.mem.read p :=
  ⟨_, h.memWrite .word a v, (h.afterCall _).storeMem _ _ _, storeMem_word_memByte_low wf apart v,
    storeMem_word_memByte_high wf _ v, fun _ => storeMem_read_other _ .word _ v⟩

/-! ### Odd words and failures -/

theorem oddFails_of_align {s : State} (h : s.params.oddWord = .align) (sz : Size) (a : Word) :
    s.oddFails sz a = false := by
  simp [State.oddFails, h]

theorem oddFails_of_fault {s : State} (h : s.params.oddWord = .fault) {a : Word} (odd : a.getLsbD 0 = true) :
    s.oddFails .word a = true := by
  simp [State.oddFails, h, odd]

theorem memRead_of_not_oddFails {s : State} {sz : Size} {a : Word} (h : s.oddFails sz a = false) :
    memRead sz a s = busRead sz (accessAddr sz a) s := by
  simp [memRead, h]

theorem memWrite_of_not_oddFails {s : State} {sz : Size} {a : Word} (h : s.oddFails sz a = false) (v : Word) :
    memWrite sz a v s = busWrite sz (accessAddr sz a) v s := by
  simp [memWrite, h]

theorem memRead_of_oddFails {s : State} {sz : Size} {a : Word} (h : s.oddFails sz a = true) :
    memRead sz a s = .error .busFailure s.failed := by
  rw [memRead, if_pos h]; rfl

theorem memWrite_of_oddFails {s : State} {sz : Size} {a : Word} (h : s.oddFails sz a = true) (v : Word) :
    memWrite sz a v s = .error .busFailure s.failed := by
  rw [memWrite, if_pos h]; rfl

/-- The read fails before the call or by the environment's answer to it. -/
theorem memRead_of_fail {s : State} (h : s.nextAnswer = .fail) (sz : Size) (a : Word) :
    memRead sz a s = .error .busFailure s.failed ∨
    memRead sz a s = .error .busFailure (s.afterCall (.read (accessAddr sz a) sz)).failed := by
  rcases memRead_cases sz a s with ⟨-, k⟩ | ⟨-, -, k⟩ | ⟨-, n, -⟩ | ⟨_, -, n, -⟩
  · exact .inl k
  · exact .inr k
  all_goals rw [h] at n; cases n

theorem memWrite_of_fail {s : State} (h : s.nextAnswer = .fail) (sz : Size) (a v : Word) :
    memWrite sz a v s = .error .busFailure s.failed ∨
    memWrite sz a v s = .error .busFailure (s.afterCall (.write (accessAddr sz a) sz (sz.trim v))).failed := by
  rcases memWrite_cases sz a v s with ⟨-, k⟩ | ⟨-, -, k⟩ | ⟨-, n, -⟩ | ⟨_, -, n, -⟩
  · exact .inl k
  · exact .inr k
  all_goals rw [h] at n; cases n

end Sys2Proof.Machine
end

section
open Sys2Proof Sys2Proof.Machine

/-- Settles O18: the store leaves its bytes in memory, and each read after it finds them at the addresses it goes to. -/
theorem storeThenRead : Obligations.StoreThenRead := by
  intro s a v plain wf
  refine ⟨fun apart => ?_, ?_⟩
  · obtain ⟨t, run, after, low, high, others⟩ := plain.memWrite_word wf apart v
    exact ⟨t, run, low, high, others, after.memRead_word low high,
      after.memRead_byte (by rw [low, lowByte_zeroExtend]), after.memRead_byte (by rw [high, highByte_zeroExtend])⟩
  · obtain ⟨t, run, after, low, others⟩ := plain.memWrite_byte wf a v
    exact ⟨t, run, low, fun p other => others p (by simpa [State.storeBytes] using other),
      after.memRead_byte (by rw [low, lowByte_zeroExtend])⟩

/-- Settles O19: `accessAddr` aligns a word's address, once or twice the same; every failure leaves `State.failed`. -/
theorem oddWordsAndFailures : Obligations.OddWordsAndFailures := by
  refine ⟨fun s a v align => ?_, fun s a v fault odd => ?_, fun s a v => ⟨rfl, rfl⟩, fun s sz a v fails => ⟨?_, ?_⟩⟩
  · have aligned : accessAddr .word (a &&& 0xFFFE) = accessAddr .word a := alignWord_alignWord a
    have goes := oddFails_of_align align .word
    rw [memRead_of_not_oddFails (goes _), memRead_of_not_oddFails (goes _), memWrite_of_not_oddFails (goes _),
      memWrite_of_not_oddFails (goes _), aligned]
    exact ⟨rfl, rfl⟩
  · have fails := oddFails_of_fault fault odd
    exact ⟨memRead_of_oddFails fails, memWrite_of_oddFails fails v⟩
  · rcases memRead_of_fail fails sz a with k | k
    all_goals exact ⟨_, k, rfl, rfl, rfl, rfl, rfl⟩
  · rcases memWrite_of_fail fails sz a v with k | k
    all_goals exact ⟨_, k, rfl, rfl, rfl, rfl, rfl⟩

end

section
/-! PROOFS. The fields of a word, and the instruction that the decoder reads from the word the encoder gives. -/

namespace Sys2Proof

/-! ### The fields of a register, a mode and a specifier (spec/30_encoding.md R103) -/

@[simp] theorem modeOf_bits (m : Mode) : modeOf m.bits = m := by cases m <;> rfl

@[simp] theorem regOf_bits (r : Reg) : regOf r.bits = r := by cases r <;> rfl

@[simp] theorem operandOf_bits (o : Operand) : operandOf o.bits = o := by
  rw [operandOf, Operand.bits, BitVec.extractLsb'_append_eq_left, BitVec.extractLsb'_append_eq_right, modeOf_bits,
    regOf_bits]

/-! ### The fields of a word that is an opcode followed by operands (R104 to R108)

The number in a name is the width of the opcode. -/

section
variable {s n : Nat}

@[simp] theorem field_append4 (h : BitVec 4) (a b : BitVec 6) (k : 12 ≤ s) :
    (h ++ a ++ b : Word).extractLsb' s n = h.extractLsb' (s - 12) n := by
  have below : (h ++ a ++ b : Word).extractLsb' s n = (h ++ a).extractLsb' (s - 6) n :=
    BitVec.extractLsb'_append_eq_of_le (by omega)
  rw [below, BitVec.extractLsb'_append_eq_of_le (by omega), Nat.sub_sub]

@[simp] theorem field_append7 (h : BitVec 7) (a : BitVec 3) (b : BitVec 6) (k : 9 ≤ s) :
    (h ++ a ++ b : Word).extractLsb' s n = h.extractLsb' (s - 9) n := by
  have below : (h ++ a ++ b : Word).extractLsb' s n = (h ++ a).extractLsb' (s - 6) n :=
    BitVec.extractLsb'_append_eq_of_le (by omega)
  rw [below, BitVec.extractLsb'_append_eq_of_le (by omega), Nat.sub_sub]

@[simp] theorem field_append8 (h b : BitVec 8) (k : 8 ≤ s) :
    (h ++ b : Word).extractLsb' s n = h.extractLsb' (s - 8) n := BitVec.extractLsb'_append_eq_of_le k

@[simp] theorem field_append10 (h : BitVec 10) (b : BitVec 6) (k : 6 ≤ s) :
    (h ++ b : Word).extractLsb' s n = h.extractLsb' (s - 6) n := BitVec.extractLsb'_append_eq_of_le k

@[simp] theorem field_append13 (h : BitVec 13) (b : BitVec 3) (k : 3 ≤ s) :
    (h ++ b : Word).extractLsb' s n = h.extractLsb' (s - 3) n := BitVec.extractLsb'_append_eq_of_le k

end

@[simp] theorem bit8_append8 (h b : BitVec 8) : (h ++ b : Word)[8] = h[0] := BitVec.getElem_append (by decide)

@[simp] theorem dstField_append4 (h : BitVec 4) (a : BitVec 6) (o : Operand) : dstField (h ++ a ++ o.bits) = o := by
  rw [dstField, BitVec.extractLsb'_append_eq_right, operandOf_bits]

@[simp] theorem srcField_append4 (h : BitVec 4) (o : Operand) (b : BitVec 6) : srcField (h ++ o.bits ++ b) = o := by
  have above : (h ++ o.bits ++ b : Word).extractLsb' 6 6 = (h ++ o.bits).extractLsb' 0 6 :=
    BitVec.extractLsb'_append_eq_of_le le_rfl
  rw [srcField, above, BitVec.extractLsb'_append_eq_right, operandOf_bits]

@[simp] theorem regField_append7 (h : BitVec 7) (r : Reg) (b : BitVec 6) : regField (h ++ r.bits ++ b) = r := by
  have above : (h ++ r.bits ++ b : Word).extractLsb' 6 3 = (h ++ r.bits).extractLsb' 0 3 :=
    BitVec.extractLsb'_append_eq_of_le le_rfl
  rw [regField, above, BitVec.extractLsb'_append_eq_right, regOf_bits]

@[simp] theorem lowField_append13 (h : BitVec 13) (b : BitVec 3) : (h ++ b : Word).extractLsb' 0 3 = b :=
  BitVec.extractLsb'_append_eq_right

@[simp] theorem dstField_append7 (h : BitVec 7) (a : BitVec 3) (o : Operand) : dstField (h ++ a ++ o.bits) = o := by
  rw [dstField, BitVec.extractLsb'_append_eq_right, operandOf_bits]

@[simp] theorem dstField_append10 (h : BitVec 10) (o : Operand) : dstField (h ++ o.bits) = o := by
  rw [dstField, BitVec.extractLsb'_append_eq_right, operandOf_bits]

@[simp] theorem countField_append7 (h : BitVec 7) (a : BitVec 3) (b : BitVec 6) : countField (h ++ a ++ b) = b :=
  BitVec.extractLsb'_append_eq_right

@[simp] theorem countField_append10 (h : BitVec 10) (b : BitVec 6) : countField (h ++ b) = b :=
  BitVec.extractLsb'_append_eq_right

@[simp] theorem byteField_append8 (h b : BitVec 8) : byteField (h ++ b) = b := BitVec.extractLsb'_append_eq_right

/-! ### The fields of a given word -/

theorem field_eq_iff (w : Word) (s n : Nat) (v : BitVec n) :
    w.extractLsb' s n = v ↔ w.toNat / 2 ^ s % 2 ^ n = v.toNat := by
  rw [BitVec.toNat_eq, BitVec.extractLsb'_toNat, Nat.shiftRight_eq_div_pow]

theorem bit8_eq (w : Word) : w[8] = decide (w.toNat / 256 % 2 = 1) := by
  rw [BitVec.getElem_eq_testBit_toNat, Nat.testBit_eq_decide_div_mod_eq]

/-- A field that a row's mask keeps is the field of the row's match. -/
theorem field_of_fits {mask pat w : Word} (fits : wordFits mask pat w = true) (s n : Nat)
    (kept : mask.extractLsb' s n = BitVec.allOnes n) : w.extractLsb' s n = pat.extractLsb' s n := by
  rw [← eq_of_beq fits, BitVec.extractLsb'_and, kept, BitVec.and_allOnes]

/-- A field of a word within one that is known. -/
theorem field_within {w : Word} {s m : Nat} {v : BitVec m} (h : w.extractLsb' s m = v) (j n : Nat) (fits : j + n ≤ m) :
    w.extractLsb' (s + j) n = v.extractLsb' j n := by
  rw [← h]
  apply BitVec.eq_of_getLsbD_eq
  intro i hi
  simp [hi, show j + i < m by omega, Nat.add_assoc]

/-! ### Words that reach an inner part of the decoder -/

theorem decode_of_system {w : Word} (h : w.extractLsb' 6 10 = 0) : decode w = decodeSystem w := by
  simp [decode, decodeLow, decodeMisc, field_within h 6 4, field_within h 3 3, field_within h 0 3]

theorem decode_of_rtsCc {w : Word} (h : w.extractLsb' 6 10 = 2) : decode w = decodeRtsCc w := by
  simp [decode, decodeLow, decodeMisc, field_within h 6 4, field_within h 3 3, field_within h 0 3]

/-! ### Selectors of which a row fixes the high bits alone -/

theorem decodeMisc_of_bit8 {w : Word} (h : w.extractLsb' 8 1 = 1) : decodeMisc w = .br (byteField w) := by
  unfold decodeMisc
  split <;> simp [field_eq_iff] at * <;> omega

theorem decodeSystem_of_fits0010 {w : Word} (h : w.extractLsb' 4 2 = 1) : decodeSystem w = .reserved0010 w := by
  unfold decodeSystem
  split <;> simp [field_eq_iff] at * <;> omega

theorem decodeSystem_of_bit5 {w : Word} (h : w.extractLsb' 5 1 = 1) : decodeSystem w = .reserved0020 w := by
  unfold decodeSystem
  split <;> simp [field_eq_iff] at * <;> omega

theorem decodeRtsCc_of_fits0090 {w : Word} (h : w.extractLsb' 4 2 = 1) : decodeRtsCc w = .reserved0090 w := by
  unfold decodeRtsCc
  split <;> simp [field_eq_iff] at * <;> omega

theorem decodeRegister_of_bit11 {w : Word} (h : w.extractLsb' 11 1 = 0) : decodeRegister w = .reserved7000 w := by
  unfold decodeRegister
  split <;> simp [field_eq_iff] at * <;> omega

/-! ### Decoding an encoded instruction -/

/-- The opcode's bits select the constructor on the way through the decoder, and each operand is read back; the word of
a RESERVED row has the row's bits where the decoder looks. -/
theorem decode_encode (i : Instr) (h : i.wf = true) : decode (encode i) = i := by
  cases i with
  | halt | wait | rti | bpt | iot | reset | rtt | reserved0007 => rfl
  | nop | clc | clv | clvc | clz | clzc | clzv | clzvc | cln | clnc | clnv | clnvc | clnz | clnzc | clnzv | ccc
  | se0 | sec | sev | sevc | sez | sezc | sezv | sezvc | sen | senc | senv | senvc | senz | senzc | senzv | scc => rfl
  | jmp | swab => simp [encode, decode, decodeLow, decodeMisc]
  | br => simp [encode, decode, decodeLow, decodeMisc_of_bit8]
  | rts => simp [encode, decode, decodeLow, decodeMisc, decodeRtsCc]
  | bne | beq | bge | blt | bgt | ble | jsr => simp [encode, decode, decodeLow]
  | clr | com | inc | dec | neg | adc | sbc | tst | ror | rol | asr | asl | mark | sxt =>
    simp [encode, decode, decodeLow]
  | bpl | bmi | bhi | blos | bvc | bvs | bcc | bcs | emt | trap => simp [encode, decode, decodeHigh]
  | clrb | comb | incb | decb | negb | adcb | sbcb | tstb | rorb | rolb | asrb | aslb | mtps | mfps =>
    simp [encode, decode, decodeHigh]
  | mov | cmp | bit | bic | bis | add | movb | cmpb | bitb | bicb | bisb | sub => simp [encode, decode]
  | xor | sob => simp [encode, decode, decodeRegister]
  | reserved0008 w =>
    exact (decode_of_system (field_of_fits h 6 10 rfl)).trans (by simp [decodeSystem, field_of_fits h 3 3 rfl])
  | reserved0010 w =>
    exact (decode_of_system (field_of_fits h 6 10 rfl)).trans (decodeSystem_of_fits0010 (field_of_fits h 4 2 rfl))
  | reserved0020 w =>
    exact (decode_of_system (field_of_fits h 6 10 rfl)).trans (decodeSystem_of_bit5 (field_of_fits h 5 1 rfl))
  | reserved0088 w =>
    exact (decode_of_rtsCc (field_of_fits h 6 10 rfl)).trans (by simp [decodeRtsCc, field_of_fits h 3 3 rfl])
  | reserved0090 w =>
    exact (decode_of_rtsCc (field_of_fits h 6 10 rfl)).trans (decodeRtsCc_of_fits0090 (field_of_fits h 4 2 rfl))
  | reserved0D40 w | reserved0D80 w =>
    simp [encode, decode, decodeLow, field_of_fits h 12 4 rfl, field_of_fits h 9 3 rfl, field_of_fits h 6 3 rfl]
  | reserved0E00 w => simp [encode, decode, decodeLow, field_of_fits h 12 4 rfl, field_of_fits h 9 3 rfl]
  | reserved7000 w =>
    simp [encode, decode, field_of_fits h 12 4 rfl, decodeRegister_of_bit11 (field_of_fits h 11 1 rfl)]
  | reserved7A00 w | reserved7C00 w =>
    simp [encode, decode, decodeRegister, field_of_fits h 12 4 rfl, field_of_fits h 9 3 rfl]
  | reserved8D40 w | reserved8D80 w =>
    simp [encode, decode, decodeHigh, field_of_fits h 12 4 rfl, field_of_fits h 9 3 rfl, field_of_fits h 6 3 rfl]
  | reserved8E00 w => simp [encode, decode, decodeHigh, field_of_fits h 12 4 rfl, field_of_fits h 9 3 rfl]
  | reservedF000 w => simp [encode, decode, field_of_fits h 12 4 rfl]

end Sys2Proof
end

section
open Sys2Proof Sys2Proof.Machine

/-- Settles O2, constructor by constructor. -/
theorem decodeOfEncode : Obligations.DecodeOfEncode := decode_encode

/-- Settles O1: the words are fixed, so each is decoded by evaluation. -/
theorem writtenWordsDecode : Obligations.WrittenWordsDecode := by
  unfold Obligations.WrittenWordsDecode
  decide

end

section
/-! PROOFS. The rows of the opcode table as spans of words (spec/30_encoding.md R115): no two meet, and the decoder gives
the row whose span holds the word. -/

namespace Sys2Proof

/-! ### The words of a row -/

/-- The words from a row's match to the last one that its mask leaves: those that fit the row, `Row.fits_iff_spans`. -/
def Row.Spans (r : Row) (w : Word) : Prop := r.pat.toNat ≤ w.toNat ∧ w.toNat + r.mask.toNat < r.pat.toNat + 2 ^ 16

/-- Every mask of the table keeps the bits above some bit, and no match has a bit below it. -/
theorem mask_keeps_high_bits :
    ∀ r ∈ opcodeTable, ∃ k ≤ 16, r.mask = BitVec.allOnes 16 <<< k ∧ r.pat >>> k <<< k = r.pat := by decide +kernel

theorem toNat_clear_low (w : Word) (k : Nat) : (w >>> k <<< k).toNat = w.toNat / 2 ^ k * 2 ^ k := by
  have fits : w.toNat / 2 ^ k * 2 ^ k < 2 ^ 16 := (Nat.div_mul_le_self _ _).trans_lt w.isLt
  rw [BitVec.toNat_shiftLeft, BitVec.toNat_ushiftRight, Nat.shiftRight_eq_div_pow, Nat.shiftLeft_eq,
    Nat.mod_eq_of_lt fits]

theorem Row.fits_iff_spans {r : Row} (hr : r ∈ opcodeTable) (w : Word) : w &&& r.mask = r.pat ↔ r.Spans w := by
  obtain ⟨k, hk, mask, pat⟩ := mask_keeps_high_bits r hr
  have size : ∀ k ≤ 16, (BitVec.allOnes 16 <<< k).toNat + 2 ^ k = 2 ^ 16 := by decide
  have last : r.mask.toNat + 2 ^ k = 2 ^ 16 := mask ▸ size k hk
  have whole : r.pat.toNat / 2 ^ k * 2 ^ k = r.pat.toNat := by rw [← toNat_clear_low, pat]
  rw [mask, ← BitVec.shiftLeft_ushiftRight, BitVec.toNat_eq, toNat_clear_low, Row.Spans]
  constructor
  · intro h
    have below := Nat.div_mul_le_self w.toNat (2 ^ k)
    have above := Nat.lt_div_mul_add (a := w.toNat) (Nat.two_pow_pos k)
    omega
  · rintro ⟨lo, hi⟩
    have same : w.toNat / 2 ^ k = r.pat.toNat / 2 ^ k :=
      Nat.div_eq_of_lt_le (by omega) (by rw [Nat.succ_mul]; omega)
    rw [same, whole]

/-- Of two rows, the words of one end before the words of the other begin. -/
theorem opcodeTable_apart :
    opcodeTable.Pairwise fun q r =>
      q.pat.toNat + 2 ^ 16 ≤ r.pat.toNat + q.mask.toNat ∨ r.pat.toNat + 2 ^ 16 ≤ q.pat.toNat + r.mask.toNat := by
  decide +kernel

/-- A word is in the span of one row alone. -/
theorem row_unique {q r : Row} (hq : q ∈ opcodeTable) (hr : r ∈ opcodeTable) {w : Word} (wq : q.Spans w)
    (wr : r.Spans w) : q = r := by
  have symm : Std.Symm fun q r : Row => q.Spans w → r.Spans w → q = r := ⟨fun _ _ h wq wr => (h wr wq).symm⟩
  have apart : opcodeTable.Pairwise fun q r => q.Spans w → r.Spans w → q = r :=
    opcodeTable_apart.imp fun h wq wr => by unfold Row.Spans at wq wr; omega
  exact apart.forall_of_forall (fun _ _ _ _ => rfl) hq hr wq wr

/-- The table lists the constructors in their order. -/
theorem getElem?_ctorIdx (i : Instr) : opcodeTable[i.ctorIdx]? = some i.row := by cases i <;> rfl

theorem row_mem (i : Instr) : i.row ∈ opcodeTable := List.mem_of_getElem? (getElem?_ctorIdx i)

/-! ### The decoder gives a row whose span holds the word

For each part of the decoder, the words that reach it are bounded, and each branch bounds them further. -/

section
variable {w : Word}

theorem decodeSystem_spans (hi : w.toNat ≤ 0x003F) : (decodeSystem w).row.Spans w := by
  unfold decodeSystem
  split
  case h_1 => split <;> simp [field_eq_iff, Row.Spans, Instr.row] at * <;> omega
  all_goals
    simp [field_eq_iff, Row.Spans, Instr.row] at *
    omega

theorem decodeCc_spans (lo : 0x00A0 ≤ w.toNat) (hi : w.toNat ≤ 0x00BF) : (decodeCc w).row.Spans w := by
  unfold decodeCc
  split <;> simp [field_eq_iff, Row.Spans, Instr.row] at * <;> omega

theorem decodeRtsCc_spans (lo : 0x0080 ≤ w.toNat) (hi : w.toNat ≤ 0x00BF) : (decodeRtsCc w).row.Spans w := by
  unfold decodeRtsCc
  split <;> simp [field_eq_iff] at *
  case h_5 => exact decodeCc_spans (by omega) hi
  all_goals
    simp [Row.Spans, Instr.row]
    omega

theorem decodeMisc_spans (hi : w.toNat ≤ 0x01FF) : (decodeMisc w).row.Spans w := by
  unfold decodeMisc
  split <;> simp [field_eq_iff] at *
  case h_1 => exact decodeSystem_spans (by omega)
  case h_3 => exact decodeRtsCc_spans (by omega) (by omega)
  all_goals
    simp [Row.Spans, Instr.row]
    omega

theorem decodeLow_spans (hi : w.toNat ≤ 0x0FFF) : (decodeLow w).row.Spans w := by
  unfold decodeLow
  split
  case h_1 heq =>
    simp [field_eq_iff] at heq
    exact decodeMisc_spans (by omega)
  case h_5 | h_8 =>
    simp [field_eq_iff, Row.Spans, Instr.row] at *
    omega
  all_goals split <;> simp [field_eq_iff, bit8_eq, Row.Spans, Instr.row] at * <;> omega

theorem decodeRegister_spans (lo : 0x7000 ≤ w.toNat) (hi : w.toNat ≤ 0x7FFF) : (decodeRegister w).row.Spans w := by
  unfold decodeRegister
  split <;> simp [field_eq_iff, Row.Spans, Instr.row] at * <;> omega

theorem decodeHigh_spans (lo : 0x8000 ≤ w.toNat) (hi : w.toNat ≤ 0x8FFF) : (decodeHigh w).row.Spans w := by
  unfold decodeHigh
  split
  case h_8 =>
    simp [field_eq_iff, Row.Spans, Instr.row] at *
    omega
  all_goals split <;> simp [field_eq_iff, bit8_eq, Row.Spans, Instr.row] at * <;> omega

end

theorem decode_spans (w : Word) : (decode w).row.Spans w := by
  have bound := w.isLt
  unfold decode
  split <;> simp [field_eq_iff] at *
  case h_1 => exact decodeLow_spans (by omega)
  case h_8 => exact decodeRegister_spans (by omega) (by omega)
  case h_9 => exact decodeHigh_spans (by omega) (by omega)
  all_goals
    simp [Row.Spans, Instr.row]
    omega

/-! ### The RESERVED rows (R117) -/

/-- The RESERVED rows are the last sixteen of the table. -/
theorem filter_reserved : opcodeTable.filter (fun r => r.mnemonic = "RESERVED") = opcodeRows5.drop 2 := rfl

theorem mem_reserved_iff (r : Row) : r ∈ opcodeRows5.drop 2 ↔ r ∈ opcodeTable ∧ r.mnemonic = "RESERVED" := by
  rw [← filter_reserved, List.mem_filter, decide_eq_true_eq]

/-- The nine ranges are the sixteen spans, with those that follow each other joined. -/
theorem reservedWord_iff_spans (w : Word) : Machine.ReservedWord w ↔ ∃ r ∈ opcodeRows5.drop 2, r.Spans w := by
  simp [Machine.ReservedWord, opcodeRows5, Row.Spans, BitVec.le_def]
  omega

end Sys2Proof
end

section
open Sys2Proof Sys2Proof.Machine

/-- Settles O4: the decoder's row is in the table and spans the word, and no other row does. -/
theorem oneRowForEachWord : Obligations.OneRowForEachWord := by
  intro w
  have mem := row_mem (decode w)
  exact ⟨_, mem, (Row.fits_iff_spans mem w).2 (decode_spans w), rfl, fun q hq fits =>
    row_unique hq mem ((Row.fits_iff_spans hq w).1 fits) (decode_spans w)⟩

/-- Settles O5: the decoder's row is the one that spans the word, so it is RESERVED where a RESERVED row spans it. -/
theorem reservedRanges : Obligations.ReservedRanges := by
  intro w
  rw [reservedWord_iff_spans]
  constructor
  · intro name
    exact ⟨_, (mem_reserved_iff _).2 ⟨row_mem _, name⟩, decode_spans w⟩
  · rintro ⟨r, hr, spans⟩
    obtain ⟨mem, name⟩ := (mem_reserved_iff r).1 hr
    rw [row_unique (row_mem _) mem (decode_spans w) spans, name]

end

section
/-! PROOFS. Where PC ends after an operand is resolved: past the words the operand takes (spec/30_encoding.md R102). -/

namespace Sys2Proof.Machine

theorem alignWord_of_even {a : Word} (even : a.getLsbD 0 = false) : alignWord a = a := by
  apply BitVec.eq_of_getLsbD_eq
  intro i hi
  rw [alignWord, BitVec.getLsbD_and]
  interval_cases i <;> simp_all

variable {s t : State} {r : Reg} {a : Word} {l : Loc}

theorem memRead_ok_reg {sz : Size} {v : Word} (h : memRead sz a s = .ok v t) (r : Reg) : t.reg r = s.reg r :=
  ((relates_memRead (quiet_composes fun _ => False) (quiet_reads _) sz a).ok h).regs r id

theorem fetchWord_pc {w : Word} (h : fetchWord s = .ok w t) : t.reg .pc = alignWord (s.reg .pc) + 2 := by
  rw [fetchWord, bind_update, bind_getReg] at h
  obtain ⟨v, u, read, rest⟩ := act_bind_inv h
  cases rest
  rw [setReg_reg_same, memRead_ok_reg read, setReg_reg_same]

theorem indexed_pc (h : indexed r s = .ok a t) (even : (s.reg .pc).getLsbD 0 = false) :
    t.reg .pc = s.reg .pc + 2 := by
  obtain ⟨w, u, fetch, rest⟩ := act_bind_inv h
  cases rest
  rw [fetchWord_pc fetch, alignWord_of_even even]

/-- Stepping PC takes a word, whatever the operand's size; stepping another register takes none. -/
theorem stepUp_pc {k : Word} (h : stepUp r k s = .ok a t) (word : r = .pc → k = 2) :
    t.reg .pc = s.reg .pc + BitVec.ofNat 16 (2 * if r = .pc then 1 else 0) := by
  cases h
  by_cases pc : r = .pc
  · rw [word pc, pc, setReg_reg_same]; rfl
  · simp [pc, setReg_reg_ne _ _ (Ne.symm pc)]

theorem stepDown_pc {k : Word} (h : stepDown r k s = .ok a t) (pc : r ≠ .pc) : t.reg .pc = s.reg .pc := by
  cases h
  exact setReg_reg_ne _ _ pc.symm

theorem extraWords_autoInc (r : Reg) : extraWords ⟨.autoInc, r⟩ = if r = .pc then 1 else 0 := by cases r <;> rfl

theorem extraWords_autoIncDeferred (r : Reg) : extraWords ⟨.autoIncDeferred, r⟩ = if r = .pc then 1 else 0 := by
  cases r <;> rfl

/-- A mode that is not deferred ends where the computation of its address does. -/
theorem direct_ends {x : Act Word} (h : (x >>= fun a => pure (Loc.mem a)) s = .ok l t) : ∃ a, x s = .ok a t := by
  obtain ⟨a, u, address, rest⟩ := act_bind_inv h
  cases rest
  exact ⟨a, address⟩

/-- A deferred mode then reads its pointer, which moves no register. -/
theorem deferred_ends {x : Act Word} (h : (x >>= fun p => memRead .word p >>= fun a => pure (Loc.mem a)) s = .ok l t) :
    ∃ p u, x s = .ok p u ∧ t.reg .pc = u.reg .pc := by
  obtain ⟨p, u, pointer, rest⟩ := act_bind_inv h
  obtain ⟨a, read⟩ := direct_ends rest
  exact ⟨p, u, pointer, memRead_ok_reg read .pc⟩

end Sys2Proof.Machine
end

section
open Sys2Proof Sys2Proof.Machine

/-- Settles O22, mode by mode: an index word is fetched at PC, an immediate or absolute word is what PC steps past. -/
theorem operandWords : Obligations.OperandWords := by
  rintro sz ⟨m, r⟩ s t l even notDown h
  cases m
  case register | deferred =>
    cases h
    simp [extraWords]
  case autoInc =>
    obtain ⟨a, step⟩ := direct_ends h
    rw [extraWords_autoInc, stepUp_pc step]
    rintro rfl
    cases sz <;> rfl
  case autoIncDeferred =>
    obtain ⟨p, u, step, read⟩ := deferred_ends h
    rw [extraWords_autoIncDeferred, read, stepUp_pc step fun _ => rfl]
  case autoDec =>
    obtain ⟨a, step⟩ := direct_ends h
    rw [stepDown_pc step fun pc => notDown ⟨pc, .inl rfl⟩]
    simp [extraWords]
  case autoDecDeferred =>
    obtain ⟨p, u, step, read⟩ := deferred_ends h
    rw [read, stepDown_pc step fun pc => notDown ⟨pc, .inr rfl⟩]
    simp [extraWords]
  case index =>
    obtain ⟨a, fetch⟩ := direct_ends h
    exact indexed_pc fetch even
  case indexDeferred =>
    obtain ⟨p, u, fetch, read⟩ := deferred_ends h
    rw [read, indexed_pc fetch even]
    rfl

end

section
/-! PROOFS. The word is recovered from the instruction it decodes to: the opcode from the row that the word fits
(`decode_spans`), the operands from the fields they were decoded from. -/

namespace Sys2Proof

@[simp] theorem bits_modeOf (b : BitVec 3) : (modeOf b).bits = b := by revert b; decide

@[simp] theorem bits_regOf (b : BitVec 3) : (regOf b).bits = b := by revert b; decide

@[simp] theorem bits_operandOf (b : BitVec 6) : (operandOf b).bits = b := by
  rw [operandOf, Operand.bits, bits_modeOf, bits_regOf]
  exact BitVec.extractLsb'_append_extractLsb'

/-! ### A word that fits a row is the row's opcode followed by its own fields

One lemma for each layout of spec/30_encoding.md R104 to R110. -/

section
variable {w : Word}

theorem word_of_double {h : BitVec 4} (fits : wordFits 0xF000 (h ++ 0#6 ++ 0#6) w = true) :
    h ++ (srcField w).bits ++ (dstField w).bits = w := by
  have opcode : w.extractLsb' 12 4 = h := by simpa using field_of_fits fits 12 4 rfl
  have high : w.extractLsb' 12 4 ++ w.extractLsb' 6 6 = w.extractLsb' 6 10 :=
    BitVec.extractLsb'_append_extractLsb'_eq_extractLsb' rfl
  rw [← opcode, srcField, dstField, bits_operandOf, bits_operandOf, high]
  exact BitVec.extractLsb'_append_extractLsb'

theorem word_of_register_count {h : BitVec 7} (fits : wordFits 0xFE00 (h ++ 0#3 ++ 0#6) w = true) :
    h ++ (regField w).bits ++ countField w = w := by
  have opcode : w.extractLsb' 9 7 = h := by simpa using field_of_fits fits 9 7 rfl
  have high : w.extractLsb' 9 7 ++ w.extractLsb' 6 3 = w.extractLsb' 6 10 :=
    BitVec.extractLsb'_append_extractLsb'_eq_extractLsb' rfl
  rw [← opcode, regField, bits_regOf, high]
  exact BitVec.extractLsb'_append_extractLsb'

theorem bits_dstField (w : Word) : (dstField w).bits = countField w := bits_operandOf _

theorem word_of_register {h : BitVec 7} (fits : wordFits 0xFE00 (h ++ 0#3 ++ 0#6) w = true) :
    h ++ (regField w).bits ++ (dstField w).bits = w := by
  rw [bits_dstField, word_of_register_count fits]

theorem word_of_count {h : BitVec 10} (fits : wordFits 0xFFC0 (h ++ 0#6) w = true) : h ++ countField w = w := by
  have opcode : w.extractLsb' 6 10 = h := by simpa using field_of_fits fits 6 10 rfl
  rw [← opcode]
  exact BitVec.extractLsb'_append_extractLsb'

theorem word_of_single {h : BitVec 10} (fits : wordFits 0xFFC0 (h ++ 0#6) w = true) : h ++ (dstField w).bits = w := by
  rw [bits_dstField, word_of_count fits]

theorem word_of_byte {h : BitVec 8} (fits : wordFits 0xFF00 (h ++ 0#8) w = true) : h ++ byteField w = w := by
  have opcode : w.extractLsb' 8 8 = h := by simpa using field_of_fits fits 8 8 rfl
  rw [← opcode]
  exact BitVec.extractLsb'_append_extractLsb'

theorem word_of_low {h : BitVec 13} (fits : wordFits 0xFFF8 (h ++ 0#3) w = true) :
    h ++ (regOf (w.extractLsb' 0 3)).bits = w := by
  have opcode : w.extractLsb' 3 13 = h := by simpa using field_of_fits fits 3 13 rfl
  rw [← opcode, bits_regOf]
  exact BitVec.extractLsb'_append_extractLsb'

theorem word_of_whole {h : Word} (fits : wordFits 0xFFFF h w = true) : h = w := by
  simpa using (field_of_fits fits 0 16 rfl).symm

end

/-! ### The decoder, part by part -/

/-- A word that fits the instruction's row is the word that the well-formed instruction encodes to. -/
def Recovers (w : Word) (i : Instr) : Prop :=
  wordFits i.row.mask i.row.pat w = true → i.wf = true ∧ encode i = w

section
variable (w : Word)

theorem decodeSystem_recovers : Recovers w (decodeSystem w) := by
  unfold decodeSystem
  split
  case h_1 => split <;> exact fun fits => ⟨rfl, word_of_whole fits⟩
  all_goals exact fun fits => ⟨fits, rfl⟩

theorem decodeCc_recovers : Recovers w (decodeCc w) := by
  unfold decodeCc
  split <;> exact fun fits => ⟨rfl, word_of_whole fits⟩

theorem decodeRtsCc_recovers : Recovers w (decodeRtsCc w) := by
  unfold decodeRtsCc
  split
  case h_1 => exact fun fits => ⟨rfl, word_of_low fits⟩
  case h_5 => exact decodeCc_recovers w
  all_goals exact fun fits => ⟨fits, rfl⟩

theorem decodeMisc_recovers : Recovers w (decodeMisc w) := by
  unfold decodeMisc
  split
  case h_1 => exact decodeSystem_recovers w
  case h_3 => exact decodeRtsCc_recovers w
  case h_5 => exact fun fits => ⟨rfl, word_of_byte fits⟩
  all_goals exact fun fits => ⟨rfl, word_of_single fits⟩

theorem decodeRegister_recovers : Recovers w (decodeRegister w) := by
  unfold decodeRegister
  split
  case h_1 => exact fun fits => ⟨rfl, word_of_register fits⟩
  case h_4 => exact fun fits => ⟨rfl, word_of_register_count fits⟩
  all_goals exact fun fits => ⟨fits, rfl⟩

theorem decodeLow_recovers : Recovers w (decodeLow w) := by
  unfold decodeLow
  split
  case h_1 => exact decodeMisc_recovers w
  case h_2 | h_3 | h_4 => split <;> exact fun fits => ⟨rfl, word_of_byte fits⟩
  case h_5 => exact fun fits => ⟨rfl, word_of_register fits⟩
  case h_6 => split <;> exact fun fits => ⟨rfl, word_of_single fits⟩
  case h_7 =>
    split
    case h_5 => exact fun fits => ⟨rfl, word_of_count fits⟩
    case h_6 | h_7 => exact fun fits => ⟨fits, rfl⟩
    all_goals exact fun fits => ⟨rfl, word_of_single fits⟩
  case h_8 => exact fun fits => ⟨fits, rfl⟩

theorem decodeHigh_recovers : Recovers w (decodeHigh w) := by
  unfold decodeHigh
  split
  case h_6 => split <;> exact fun fits => ⟨rfl, word_of_single fits⟩
  case h_7 =>
    split
    case h_6 | h_7 => exact fun fits => ⟨fits, rfl⟩
    all_goals exact fun fits => ⟨rfl, word_of_single fits⟩
  case h_8 => exact fun fits => ⟨fits, rfl⟩
  all_goals split <;> exact fun fits => ⟨rfl, word_of_byte fits⟩

theorem decode_recovers : Recovers w (decode w) := by
  unfold decode
  split
  case h_1 => exact decodeLow_recovers w
  case h_8 => exact decodeRegister_recovers w
  case h_9 => exact decodeHigh_recovers w
  case h_16 => exact fun fits => ⟨fits, rfl⟩
  all_goals exact fun fits => ⟨rfl, word_of_double fits⟩

theorem decode_row_fits : wordFits (decode w).row.mask (decode w).row.pat w = true :=
  beq_iff_eq.2 ((Row.fits_iff_spans (row_mem _) w).2 (decode_spans w))

end

end Sys2Proof
end

section
open Sys2Proof Sys2Proof.Machine

/-- Settles O3: the word fits the row of its instruction, whose operands are the word's own fields. -/
theorem encodeOfDecode : Obligations.EncodeOfDecode := fun w => decode_recovers w (decode_row_fits w)

end

section
/-! PROOFS. The opcode fetch, and the step of a core that the environment and the arbiter leave alone
(spec/40_dispatch_loop.md R150, R152 to R154, R158). -/

namespace Sys2Proof.Machine

theorem oddFails_alignWord (s : State) (sz : Size) (a : Word) : s.oddFails sz (alignWord a) = false := by
  simp [State.oddFails, alignWord]

theorem trim_word (v : Word) : Size.word.trim v = v := BitVec.and_allOnes

/-- The state in which a fetch has read the word at the even address of PC. -/
def State.fetchCalled (s : State) : State := (s.setReg .pc s.fetchAddr).afterCall (.read s.fetchAddr .word)

/-- All a fetch can do: the environment fails it, or PC is stepped past the word that memory or a device gives. -/
theorem fetchWord_cases (s : State) :
    (s.nextAnswer = .fail ∧ fetchWord s = .error .busFailure s.fetchCalled.failed) ∨
    (s.nextAnswer = .memory ∧
      fetchWord s = .ok (s.memValue .word s.fetchAddr) (s.fetchCalled.setReg .pc (s.fetchAddr + 2))) ∨
    (∃ v, s.nextAnswer = .device v ∧ fetchWord s = .ok v (s.fetchCalled.setReg .pc (s.fetchAddr + 2))) := by
  have fetch : fetchWord s = (memRead .word s.fetchAddr >>= fun w =>
      update (fun u => u.setReg .pc (u.reg .pc + 2)) >>= fun _ => pure w) (s.setReg .pc s.fetchAddr) := rfl
  have aligned : accessAddr .word s.fetchAddr = s.fetchAddr := alignWord_alignWord _
  rw [fetch]
  rcases memRead_cases .word s.fetchAddr (s.setReg .pc s.fetchAddr) with
    ⟨odd, -⟩ | ⟨-, answer, read⟩ | ⟨-, answer, read⟩ | ⟨v, -, answer, read⟩
  · rw [State.fetchAddr, oddFails_alignWord] at odd; cases odd
  all_goals rw [aligned] at read
  · exact .inl ⟨answer, act_bind_error read⟩
  · exact .inr (.inl ⟨answer, act_bind_ok read⟩)
  · exact .inr (.inr ⟨v, answer, by rw [act_bind_ok read, trim_word]; rfl⟩)

/-! ### The start of an instruction -/

theorem begin_eq (s : State) : s.begin =
    { s with
      ppc   := if s.extended && flagH s.psw then s.ppc else s.reg .pc
      ppsw  := if s.extended && flagH s.psw then s.ppsw else s.psw
      calls := .hook (s.reg .pc) :: s.calls
      start := s.snapshot } := by
  unfold State.begin State.sampleShadows
  split <;> rfl

/-- A fetch that succeeds leaves `State.fetched`. -/
theorem begin_fetchCalled (s : State) : s.begin.fetchCalled.setReg .pc (s.begin.fetchAddr + 2) = s.fetched := by
  rw [begin_eq]; rfl

/-- The abort of a failed fetch undoes the alignment of PC, and nothing else has changed but the record of the failure,
the shadows and the answers and calls of the bus. -/
theorem abortFetch_failed (s : State) : s.begin.fetchCalled.failed.abortFetch =
    { s.begin.failed with answers := s.answers.tail, calls := .read s.fetchAddr .word :: s.begin.calls } := by
  rw [State.abortFetch, State.restore, bankFollows_same, begin_eq]
  · rfl
  · rw [begin_eq]; rfl

/-- An instruction whose fetch succeeds is run in `State.fetched`; one whose fetch fails is aborted. -/
theorem executeOne_cases (s : State) :
    (s.nextAnswer = .fail ∧ executeOne s = .next s.begin.fetchCalled.failed.abortFetch) ∨
    (s.nextAnswer = .memory ∧ executeOne s = exec (decode (s.memValue .word s.fetchAddr)) s.fetched) ∨
    (∃ v, s.nextAnswer = .device v ∧ executeOne s = exec (decode v) s.fetched) := by
  have same : s.begin.nextAnswer = s.nextAnswer ∧
      s.begin.memValue .word s.begin.fetchAddr = s.memValue .word s.fetchAddr := by rw [begin_eq]; exact ⟨rfl, rfl⟩
  obtain ⟨sameAnswer, sameValue⟩ := same
  unfold executeOne
  rcases fetchWord_cases s.begin with ⟨answer, fetch⟩ | ⟨answer, fetch⟩ | ⟨v, answer, fetch⟩ <;>
    rw [sameAnswer] at answer <;> rw [fetch]
  · exact .inl ⟨answer, rfl⟩
  · exact .inr (.inl ⟨answer, by rw [sameValue, begin_fetchCalled]⟩)
  · exact .inr (.inr ⟨v, answer, by rw [begin_fetchCalled]⟩)

theorem fetched_started (s : State) : s.fetched.Started where
  regs := by simp [State.fetched, State.snapshot, ← Regs.get_pc]
  psw := rfl

/-! ### An undisturbed step -/

theorem takeInputs_of_nil {s : State} (h : s.inputs = []) : s.takeInputs = s := by
  cases s
  cases h
  rfl

theorem State.Undisturbed.step {s : State} (h : s.Undisturbed) : Machine.step s = executeOne s := by
  rw [Machine.step, takeInputs_of_nil h.noInput, coreStep, h.notStuck, h.noTrap]
  simp [h.notWaiting]

end Sys2Proof.Machine
end

section
open Sys2Proof Sys2Proof.Machine

/-- Settles O6: the step is `executeOne`, by the answer that the fetch gets. -/
theorem stepRunsDecodedInstruction : Obligations.StepRunsDecodedInstruction := by
  intro s undisturbed
  rw [undisturbed.step]
  refine ⟨fetched_started s, fun answer => ?_, fun v answer => ?_⟩
  all_goals rcases executeOne_cases s with ⟨k, run⟩ | ⟨k, run⟩ | ⟨w, k, run⟩ <;> rw [answer] at k <;> cases k
  · exact run
  · exact run

/-- Settles O7: S0 is the state before the fetch, so its restore changes neither PSW nor bank. -/
theorem failedFetchAborts : Obligations.FailedFetchAborts := by
  intro s undisturbed answer
  rw [undisturbed.step]
  rcases executeOne_cases s with ⟨-, run⟩ | ⟨k, -⟩ | ⟨v, k, -⟩
  · refine ⟨_, run, ?_⟩
    rw [abortFetch_failed, begin_eq]
    exact ⟨rfl, rfl, rfl, rfl, rfl, rfl, rfl⟩
  all_goals rw [answer] at k; cases k

/-- Settles O41: completion is one update of the trace latch, and an abort restores registers, PSW and bank alone. -/
theorem completionSetsTrace : Obligations.CompletionSetsTrace :=
  fun s => ⟨rfl, rfl, by simp [State.complete], abort_tracePending s⟩

end

section
/-! PROOFS. What the inputs of the environment leave alone while none of them is a reset. -/

namespace Sys2Proof.Machine

/-- The registers, PSW, the PC shadow, the wait and the stuck state are kept. -/
structure CoreHeld (s t : State) : Prop where
  regs        : t.regs = s.regs
  psw         : t.psw = s.psw
  ppc         : t.ppc = s.ppc
  waitState   : t.waitState = s.waitState
  doubleFault : t.doubleFault = s.doubleFault

theorem CoreHeld.trans {s t u : State} (h : CoreHeld s t) (k : CoreHeld t u) : CoreHeld s u :=
  ⟨k.regs.trans h.regs, k.psw.trans h.psw, k.ppc.trans h.ppc, k.waitState.trans h.waitState,
    k.doubleFault.trans h.doubleFault⟩

theorem applyInput_held (s : State) {i : EnvInput} (h : ∀ b, i ≠ .reset b) : CoreHeld s (applyInput s i) := by
  cases i with
  | irq | haltLine | eventEdge | powerFail | virq => simp only [applyInput]; split <;> exact ⟨rfl, rfl, rfl, rfl, rfl⟩
  | peripheral | store => exact ⟨rfl, rfl, rfl, rfl, rfl⟩
  | reset b => exact absurd rfl (h b)

theorem takeInputs_held {s : State} (h : s.NoReset) : CoreHeld s s.takeInputs :=
  takeInputs_induction (C := CoreHeld s) ⟨rfl, rfl, rfl, rfl, rfl⟩ fun u k _ hi =>
    k.trans (applyInput_held u fun b e => h b (e ▸ hi))

/-- An arbiter that takes no trap holds the core, and memory too. -/
theorem arbitrate_idle_held {s t : State} (h : arbitrate s = .idle t) : CoreHeld s t ∧ t.mem = s.mem := by
  rcases arbitrate_idle h with rfl | rfl <;> exact ⟨⟨rfl, rfl, rfl, rfl, rfl⟩, rfl⟩

end Sys2Proof.Machine
end

section
open Sys2Proof Sys2Proof.Machine

/-- Settles O10: neither an input nor the idle arbiter touches the wait state, so a waiting core never executes. -/
theorem waitHoldsUntilTrap : Obligations.WaitHoldsUntilTrap := by
  intro s waiting noReset
  have env := takeInputs_held noReset
  have waits : s.takeInputs.waitState = true := env.waitState.trans waiting
  constructor
  · intro t notStuck idle
    obtain ⟨held, mem⟩ := arbitrate_idle_held idle
    have all := env.trans held
    have still : t.waitState = true := all.waitState.trans waiting
    have run : step s = .next t := by
      simp [step, coreStep, env.doubleFault.trans notStuck, idle, still]
    exact ⟨run, all.regs, all.psw, still, all.ppc, mem⟩
  · intro t run ended
    rw [step] at run
    rcases coreStep_cases s.takeInputs with ⟨-, e⟩ | ⟨-, u, -, e⟩ | ⟨-, r, -, e⟩ | ⟨-, u, -, w, e⟩ | ⟨-, u, idle, w, -⟩
    · rw [e] at run; cases run; rw [waits] at ended; cases ended
    · rw [e]
    · rw [e]
    · rw [e] at run; cases run; rw [w] at ended; cases ended
    · rw [(arbitrate_idle_held idle).1.waitState, waits] at w; cases w

end

section
/-! PROOFS. A run of the loop is a sequence of steps (spec/40_dispatch_loop.md R160, R161). -/

namespace Sys2Proof.Machine

theorem core_run_succ (M : Host.Core) (k : Nat) {s u : M.State} (first : M.step s = .next u) :
    M.run (k + 1) s = M.run k u := by
  rw [Host.Core.run, first]

theorem after_succ {s u : State} (n : Nat) (first : step s = .next u) : s.after (n + 1) = u.after n :=
  core_run_succ core n first

/-- A run that ends has used its budget up, by steps that none stopped. -/
theorem runFrom_is_steps {budget before used : Nat} {s t : State} (h : runFrom budget before s = .next (used, t)) :
    budget ≤ used ∧ ∃ n, s.after n = .next t := by
  by_cases done : budget ≤ before
  · rw [runFrom_turn, if_pos done] at h
    cases h
    exact ⟨done, 0, rfl⟩
  · rw [runFrom_turn, if_neg done] at h
    have one {u : State} (turn : (coreStep s.takeInputs).2 = .next u) : s.after 1 = .next u := after_succ 0 turn
    have more {cost : Nat} {u : State} (positive : 0 < cost) (turn : (coreStep s.takeInputs).2 = .next u)
        (rest : runFrom budget (before + cost) u = .next (used, t)) : budget ≤ used ∧ ∃ n, s.after n = .next t := by
      obtain ⟨spent, n, k⟩ := runFrom_is_steps rest
      exact ⟨spent, n + 1, (after_succ n turn).trans k⟩
    split at h
    case h_1 | h_2 => cases h
    case h_3 e | h_4 e =>
      cases h
      exact ⟨le_rfl, 1, one (by rw [e])⟩
    case h_5 e => exact more trapCycles_pos (by rw [e]) h
    case h_6 e => exact more (instructionCycles_pos _) (by rw [e]) h
termination_by budget - before

end Sys2Proof.Machine
end

section
open Sys2Proof Sys2Proof.Machine

/-- Settles O60: each turn is one unfolding of the loop, and a run that ends is an induction over the cycles left. -/
theorem runIsASequenceOfSteps : Obligations.RunIsASequenceOfSteps := by
  refine ⟨trapCycles_pos, instructionCycles_pos, fun _ _ => rfl, fun budget used s => ⟨fun done => ?_, fun left => ?_⟩,
    fun budget used s t => runFrom_is_steps⟩
  · rw [runFrom_turn, if_pos done]
  · rw [runFrom_turn, if_neg (by omega)]
    refine ⟨fun t e => ?_, fun t e => ?_, fun t e => ?_, fun t e => ?_, fun k f e => ?_⟩
    all_goals rw [e]

end

section
/-! PROOFS. What an instruction leaves that a bus failure stops (spec/40_dispatch_loop.md R158). Where it takes a trap
or the halt path, the failure stopped that sequence; every other rule writes last. -/

namespace Sys2Proof.Machine

variable {α β : Type}

/-- A part of a rule and what follows it: `P` holds over the part, `E` from there to the end. Of the value that the rest
runs on, it is known that the part gave it. -/
theorem relates_bind_end {P E : State → State → Prop} {Q : Stop → State → State → Prop}
    (ends : ∀ {s t u}, P s t → E t u → E s u) (stop : ∀ {e s t u}, P s t → Q e t u → Q e s u) {x : Act α}
    {f : α → Act β} (hx : Relates P Q x) (hf : ∀ a, (∃ s t, x s = .ok a t) → Relates E Q (f a)) :
    Relates E Q (x >>= f) where
  ok h := by
    obtain ⟨a, t, part, rest⟩ := act_bind_inv h
    exact ends (hx.ok part) ((hf a ⟨_, _, part⟩).ok rest)
  error {s e u} h := by
    rcases part : x s with ⟨a, t⟩ | ⟨e', t⟩
    · rw [act_bind_ok part] at h
      exact stop (hx.ok part) ((hf a ⟨_, _, part⟩).error h)
    · rw [act_bind_error part] at h
      cases h
      exact hx.error part

/-! ### The record of bus failures -/

/-- No failure was recorded. -/
structure NoFailure (s t : State) : Prop where
  pending : t.busFaultPending = s.busFaultPending
  count   : t.busFaultCount = s.busFaultCount

theorem NoFailure.of_eq {s t : State} (pending : t.busFaultPending = s.busFaultPending := by simp)
    (count : t.busFaultCount = s.busFaultCount := by simp) : NoFailure s t := ⟨pending, count⟩

theorem NoFailure.trans {s t u : State} (h : NoFailure s t) (k : NoFailure t u) : NoFailure s u :=
  ⟨k.pending.trans h.pending, k.count.trans h.count⟩

/-- One failure was recorded, and what an abort takes over from the state it finds is as it was, but for memory. -/
structure OneFailure (s t : State) : Prop where
  params  : t.params = s.params
  start   : t.start = s.start
  wait    : t.waitState = s.waitState
  trace   : t.tracePending = s.tracePending
  pending : t.busFaultPending = true
  count   : t.busFaultCount = s.busFaultCount + 1

theorem Stopped.oneFailure {s t : State} (h : Stopped s t) : OneFailure s t :=
  ⟨h.rest.params, h.rest.start, h.rest.waitState, h.trace, h.pending, h.count⟩

/-! ### A rule that writes last -/

/-- The rule only reads until its last access: where it is stopped, memory is as before. -/
abbrev WritesLast (rule : Act α) : Prop := Relates NoFailure QuietStop rule

theorem RuleKeeps.writesLast {rule : Act Unit} {written : Reg → Prop} {status : Nat → Prop}
    {stored : State → Nat → Prop} (h : ∀ s, RuleKeeps written status (stored s) rule s) : WritesLast rule where
  ok {s _ _} e := ⟨((h s).ends _ e).pending, ((h s).ends _ e).count⟩
  error {s _ _} e := (h s).stop _ _ e

/-- Before a rule that writes last, any part that only reads. -/
theorem WritesLast.after {x : Act α} {f : α → Act β} (reads : Relates (Quiet fun _ => True) QuietStop x)
    (rest : ∀ a, (∃ s t, x s = .ok a t) → WritesLast (f a)) : WritesLast (x >>= f) :=
  relates_bind_end (E := NoFailure) (Q := QuietStop) (fun quiet => .trans ⟨quiet.pending, quiet.count⟩)
    (quiet_composes _).stop reads rest

theorem WritesLast.after_update {f : State → State} {g : Unit → Act β} (regs : ∀ s, Quiet (fun _ => True) s (f s))
    (rest : WritesLast (g ())) : WritesLast (update f >>= g) := .after (relates_update regs) fun _ _ => rest

theorem WritesLast.after_look {f : State → α} {g : α → Act β} (rest : ∀ a, WritesLast (g a)) :
    WritesLast (look f >>= g) := .after (relates_look (quiet_composes _) f) fun a _ => rest a

theorem WritesLast.after_pop {f : Word → Act β} (rest : ∀ a, WritesLast (f a)) : WritesLast (pop >>= f) :=
  .after (quiet_pop trivial) fun a _ => rest a

theorem quiet_setAny (r : Reg) (v : Word) (s : State) : Quiet (fun _ => True) s (s.setReg r v) :=
  quiet_setReg trivial s v

theorem writesLast_update {f : State → State} (h : ∀ s, NoFailure s (f s)) : WritesLast (update f) := relates_update h

theorem writesLast_push (v : Word) : WritesLast (push v) := by
  refine .after_update (fun s => quiet_setAny .sp _ s) (.after_look fun a => ⟨fun {s _ _} h => ?_, fun {s _ _} h => ?_⟩)
  all_goals rcases memWrite_outcome .word a v s with ⟨u, e, stopped⟩ | ⟨u, e, stored⟩ <;> rw [e] at h <;> cases h
  · exact ⟨stored.pending, stored.count⟩
  · exact ⟨rfl, stopped⟩

/-- The link register is written after the push, which is the last access. -/
theorem writesLast_push_link (r : Reg) (v target : Word) : WritesLast (push v >>= fun _ =>
    getReg .pc >>= fun link => setReg r link >>= fun _ => setReg .pc target) where
  ok h := by
    obtain ⟨_, t, pushed, rest⟩ := act_bind_inv h
    cases rest
    exact .trans ((writesLast_push v).ok pushed) .of_eq
  error {s _ _} h := by
    rcases pushed : push v s with ⟨_, t⟩ | ⟨e, t⟩
    · rw [act_bind_ok pushed] at h; cases h
    · rw [act_bind_error pushed] at h; cases h; exact (writesLast_push v).error pushed

/-- JMP and JSR of a destination that is not a register. -/
theorem writesLast_transfer {dst : Operand} (mode : dst.mode ≠ .register) {go : Word → Act Unit}
    (rest : ∀ a, WritesLast (go a)) : WritesLast (resolve .word dst >>= fun l => match l with
      | .reg _ => reservedTrap
      | .mem a => go a) :=
  .after (quiet_resolve trivial .word dst fun _ _ => trivial) fun l ⟨s, t, resolved⟩ => by
    cases l with
    | reg r => exact absurd (congrArg Operand.mode (resolve_reg resolved).1) mode
    | mem a => exact rest a

/-- The PSW that a rule writes at its end is of no account for where it is stopped. -/
theorem changes_any (f : Word → Word) : Changes (fun _ => True) f := fun _ _ h => absurd trivial h

/-- Every instruction that takes no sequence writes last. -/
theorem exec_writesLast {i : Instr} {s : State} (h : sequenceOf i s = none) :
    ∃ how rule, (∀ s, exec i s = perform how rule s) ∧ WritesLast rule := by
  unfold exec
  cases i with
  | halt | bpt | iot | emt | trap | reserved0007 | reserved0008 | reserved0010 | reserved0020 | reserved0088 |
    reserved0090 | reserved0D40 | reserved0D80 | reserved0E00 | reserved7000 | reserved7A00 | reserved7C00 |
    reserved8D40 | reserved8D80 | reserved8E00 | reservedF000 => simp [sequenceOf, Instr.row] at h
  | wait | reset => exact ⟨_, _, fun _ => rfl, writesLast_update fun _ => .of_eq⟩
  | nop | clc | clv | clvc | clz | clzc | clzv | clzvc | cln | clnc | clnv | clnvc | clnz | clnzc | clnzv | ccc | se0 |
    sec | sev | sevc | sez | sezc | sezv | sezvc | sen | senc | senv | senvc | senz | senzc | senzv | scc =>
    exact ⟨_, _, fun _ => rfl, writesLast_update fun _ => .of_eq⟩
  | br | bne | beq | bge | blt | bgt | ble | bpl | bmi | bhi | blos | bvc | bvs | bcc | bcs =>
    exact ⟨_, _, fun _ => rfl, writesLast_update fun _ => by split <;> exact .of_eq⟩
  | sob => exact ⟨_, _, fun _ => rfl, writesLast_update fun _ => by dsimp only; split <;> exact .of_eq⟩
  | rti | rtt =>
    exact ⟨_, _, fun _ => rfl, .after_pop fun _ => .after_pop fun _ => writesLast_update fun _ => .of_eq⟩
  | rts r =>
    exact ⟨_, _, fun _ => rfl, .after_look fun _ => .after_update (quiet_setAny .pc _) <| .after_pop fun _ =>
      writesLast_update fun _ => .of_eq⟩
  | mark nn =>
    exact ⟨_, _, fun _ => rfl, .after_update (fun _ => quiet_setAny .sp _ _) <| .after_look fun _ =>
      .after_update (quiet_setAny .pc _) <| .after_pop fun _ => writesLast_update fun _ => .of_eq⟩
  | jmp dst =>
    exact ⟨_, _, fun _ => rfl, writesLast_transfer (by simpa [sequenceOf] using h) fun _ =>
      writesLast_update fun _ => .of_eq⟩
  | jsr r dst =>
    exact ⟨_, _, fun _ => rfl, writesLast_transfer (by simpa [sequenceOf] using h) fun _ =>
      .after_look fun _ => writesLast_push_link _ _ _⟩
  | clr | clrb | sxt => exact ⟨_, _, fun _ => rfl, RuleKeeps.writesLast fun _ => writeOnly_keeps (changes_any _)⟩
  | com | comb | inc | incb | dec | decb | neg | negb | adc | adcb | sbc | sbcb | ror | rorb | rol | rolb | asr | asrb |
    asl | aslb | swab =>
    exact ⟨_, _, fun _ => rfl, RuleKeeps.writesLast fun _ => readModifyWrite_keeps fun _ => changes_any _⟩
  | tst | tstb | mtps => exact ⟨_, _, fun _ => rfl, RuleKeeps.writesLast fun _ => readOnly_keeps fun _ => changes_any _⟩
  | mfps => exact ⟨_, _, fun _ => rfl, .after_look fun _ => RuleKeeps.writesLast fun _ => storeByte_keeps⟩
  | mov =>
    exact ⟨_, _, fun _ => rfl, RuleKeeps.writesLast fun _ => keeps_after_source fun _ _ =>
      writeOnly_keeps (changes_any _)⟩
  | movb => exact ⟨_, _, fun _ => rfl, RuleKeeps.writesLast fun _ => keeps_after_source fun _ _ => storeByte_keeps⟩
  | cmp | cmpb | bit | bitb =>
    exact ⟨_, _, fun _ => rfl, RuleKeeps.writesLast fun _ => readBoth_keeps fun _ _ => changes_any _⟩
  | bic | bicb | bis | bisb | add | sub =>
    exact ⟨_, _, fun _ => rfl, RuleKeeps.writesLast fun _ => keeps_after_source fun _ _ =>
      readModifyWrite_keeps fun _ => changes_any _⟩
  | xor =>
    exact ⟨_, _, fun _ => rfl, .after_look fun _ => RuleKeeps.writesLast fun _ =>
      readModifyWrite_keeps fun _ => changes_any _⟩

/-! ### A trap and the halt path -/

/-- What the parts of a sequence before its install keep. -/
structure Underway (s t : State) : Prop extends NoFailure s t where
  params : t.params = s.params
  start  : t.start = s.start
  wait   : t.waitState = s.waitState
  trace  : t.tracePending = s.tracePending

theorem Underway.of_eq {s t : State} (record : NoFailure s t := by exact .of_eq)
    (params : t.params = s.params := by simp) (start : t.start = s.start := by simp)
    (wait : t.waitState = s.waitState := by simp) (trace : t.tracePending = s.tracePending := by simp) : Underway s t := ⟨record, params, start, wait, trace⟩

/-- Where a bus failure stopped a sequence, it was recorded. -/
def FailureStop (e : Stop) (s t : State) : Prop := e = .busFailure → OneFailure s t

theorem underway_composes : Composes Underway FailureStop where
  refl _ := .of_eq
  trans h k := .of_eq (h.toNoFailure.trans k.toNoFailure) (k.params.trans h.params) (k.start.trans h.start)
    (k.wait.trans h.wait) (k.trace.trans h.trace)
  stop h k e :=
    have k := k e
    ⟨k.params.trans h.params, k.start.trans h.start, k.wait.trans h.wait, k.trace.trans h.trace, k.pending,
      by rw [k.count, h.count]⟩

theorem underway_access : AccessRelated Underway FailureStop where
  call _ _ := .of_eq
  failed s _ := (stopped_failed s).oneFailure
  store _ _ _ _ := .of_eq

theorem underway_setReg (r : Reg) (s : State) (v : Word) : Underway s (s.setReg r v) := .of_eq

/-- A vector that is not a multiple of 4 is no bus failure. -/
theorem underway_checkVector (vec : Word) : Relates Underway FailureStop (checkVector vec) where
  ok {s _ _} h := by
    unfold checkVector at h
    split at h <;> cases h
    exact .of_eq
  error {s _ _} h := by
    unfold checkVector at h
    split at h <;> cases h
    exact nofun

/-- A part of a sequence, before its install. -/
theorem sequence_part {x : Act α} {f : α → Act β} (part : Relates Underway FailureStop x)
    (rest : ∀ a, Relates NoFailure FailureStop (f a)) : Relates NoFailure FailureStop (x >>= f) :=
  relates_bind_end (E := NoFailure) (Q := FailureStop) (fun underway => underway.toNoFailure.trans)
    underway_composes.stop part fun a _ => rest a

theorem underway_memRead (a : Word) : Relates Underway FailureStop (memRead .word a) :=
  relates_memRead underway_composes underway_access.toReadRelated .word a

theorem underway_push (v : Word) : Relates Underway FailureStop (push v) :=
  relates_push underway_composes underway_access (underway_setReg .sp) v

theorem trap_failures (vec : Word) : Relates NoFailure FailureStop (trap vec) := by
  have look {γ : Type} (f : State → γ) : Relates Underway FailureStop (look f) := relates_look underway_composes f
  unfold trap trapSequence
  refine sequence_part (underway_checkVector vec) fun _ => sequence_part (relates_update fun _ => .of_eq) fun _ => ?_
  refine sequence_part (underway_memRead _) fun _ => sequence_part (underway_memRead _) fun _ => ?_
  refine sequence_part (relates_update underway_composes.refl) fun _ => sequence_part (look _) fun _ => ?_
  refine sequence_part (underway_push _) fun _ => sequence_part (look _) fun _ => ?_
  exact sequence_part (underway_push _) fun _ => relates_update fun _ => .of_eq

theorem underway_enterHalt (s : State) : Underway s s.enterHalt := ⟨⟨rfl, rfl⟩, rfl, rfl, rfl, rfl⟩

theorem haltPath_failures : Relates NoFailure FailureStop haltPath := by
  have look {γ : Type} (f : State → γ) : Relates Underway FailureStop (look f) := relates_look underway_composes f
  unfold haltPath
  refine sequence_part (look _) fun vec => sequence_part (underway_checkVector vec) fun _ => ?_
  refine sequence_part (look _) fun _ => sequence_part (relates_update underway_enterHalt) fun _ => ?_
  refine sequence_part (underway_memRead _) fun _ => sequence_part (underway_memRead _) fun _ => ?_
  refine sequence_part (underway_push _) fun _ => sequence_part (look _) fun _ => ?_
  exact sequence_part (underway_push _) fun _ => relates_update fun _ => ⟨rfl, rfl⟩

theorem sequenceOf_failures {i : Instr} {s : State} {sequence : Act Unit} (h : sequenceOf i s = some sequence) :
    Relates NoFailure FailureStop sequence := by
  unfold sequenceOf at h
  split at h
  case h_5 =>
    cases h
    split
    · exact haltPath_failures
    · exact trap_failures _
  case h_6 | h_7 | h_8 =>
    split at h <;> cases h
    exact trap_failures _
  all_goals
    cases h
    exact trap_failures _

/-! ### The end of an instruction -/

theorem perform_next {how : Completion} {rule : Act Unit} {s t : State} (h : perform how rule s = .next t) :
    (∃ u, rule s = .ok () u ∧ t = u.complete how) ∨ (∃ u, rule s = .error .busFailure u ∧ t = u.abort) := by
  unfold perform at h
  split at h <;> cases h
  · exact .inl ⟨_, ‹_›, rfl⟩
  · exact .inr ⟨_, ‹_›, rfl⟩

/-- What an instruction that recorded a failure leaves, but for memory. -/
structure Aborted (s t : State) : Prop where
  pending : t.busFaultPending = true
  count   : t.busFaultCount = s.busFaultCount + 1
  regs    : t.regs = s.start.regs.set .pc (abortPc s.params.faultPc s.start.regs.pc)
  psw     : t.psw = s.start.psw
  trace   : t.tracePending = s.tracePending
  wait    : t.waitState = s.waitState
  bank    : t.bank = s.bank

/-- The bank follows the PSW before and after, and the abort restores the PSW. -/
theorem OneFailure.aborted {s u : State} (h : OneFailure s u) (started : s.Started) (before : s.Inv)
    (after : u.abort.Inv) : Aborted s u.abort where
  pending := by simp [h.pending]
  count := by simp [h.count]
  regs := by simp [h.start, h.params]
  psw := by simp [h.start]
  trace := by simp [h.trace]
  wait := by simp [h.wait]
  bank := by rw [after.bank, before.bank]; simp [State.extended, h.params, h.start, started.psw]

end Sys2Proof.Machine
end

section
open Sys2Proof Sys2Proof.Machine

/-- Settles O51: the failure, if any, stopped the instruction's sequence, or the last access of its rule. -/
theorem abortIsAtomic : Obligations.AbortIsAtomic := by
  intro i s t inv started h
  have after : t.Inv := (progress_exec h).inv inv
  have done {u : State} (how : Completion) (k : NoFailure s u) :
      (u.complete how).busFaultPending = s.busFaultPending ∧ (u.complete how).busFaultCount = s.busFaultCount :=
    ⟨k.pending, k.count⟩
  cases seq : sequenceOf i s with
  | none =>
    obtain ⟨how, rule, run, last⟩ := exec_writesLast seq
    rw [run] at h
    rcases perform_next h with ⟨u, ended, rfl⟩ | ⟨u, failed, rfl⟩
    · exact .inl (done how (last.ok ended))
    · obtain ⟨-, stopped⟩ := last.error failed
      obtain ⟨pending, count, regs, psw, trace, wait, bank⟩ := stopped.oneFailure.aborted started inv after
      refine .inr ⟨pending, count, regs, psw, trace, wait, bank, ?_⟩
      rw [abort_mem, stopped.mem]
  | some sequence =>
    rw [exec_of_sequenceOf seq] at h
    rcases perform_next h with ⟨u, ended, rfl⟩ | ⟨u, failed, rfl⟩
    · exact .inl (done .ordinary ((sequenceOf_failures seq).ok ended))
    · have failure := (sequenceOf_failures seq).error failed rfl
      obtain ⟨pending, count, regs, psw, trace, wait, bank⟩ := failure.aborted started inv after
      exact .inr ⟨pending, count, regs, psw, trace, wait, bank, u, failed, abort_mem u⟩

end

section
/-! PROOFS. What each addressing mode resolves to where plain memory answers, what an immediate reads, and what an
access to a location does (spec/41_addressing_modes.md R181, R190 to R200). -/

namespace Sys2Proof.Machine

/-! ### The address computations -/

theorem stepSize_eq (r : Reg) (sz : Size) : stepSize r sz = if sz = .word ∨ r = .sp ∨ r = .pc then 2 else 1 := by
  cases sz
  · rfl
  · cases r <;> rfl

theorem stepUp_run (r : Reg) (k : Word) (s : State) :
    stepUp r k s = .ok (s.reg r) (s.setReg r (s.reg r + k)) := rfl

theorem stepDown_run (r : Reg) (k : Word) (s : State) :
    stepDown r k s = .ok (s.reg r - k) (s.setReg r (s.reg r - k)) := by
  rw [stepDown, bind_getReg, bind_setReg, getReg_run, setReg_reg_same]

theorem State.PlainBus.setReg {s : State} (h : s.PlainBus) (r : Reg) (v : Word) : (s.setReg r v).PlainBus :=
  ⟨h.aligns, h.answers⟩

/-- The state after a word of the instruction stream has been read. -/
def State.wordFetched (s : State) : State := (s.setReg .pc (s.fetchAddr + 2)).afterCall (.read s.fetchAddr .word)

/-- Memory answers the fetch, so its other two outcomes are excluded. -/
theorem State.PlainBus.fetchWord {s : State} (h : s.PlainBus) :
    fetchWord s = .ok (s.memValue .word s.fetchAddr) s.wordFetched := by
  rcases fetchWord_cases s with ⟨k, -⟩ | ⟨-, run⟩ | ⟨_, k, -⟩
  · rw [h.nextAnswer] at k; cases k
  · exact run
  · rw [h.nextAnswer] at k; cases k

theorem State.PlainBus.wordFetched {s : State} (h : s.PlainBus) : s.wordFetched.PlainBus :=
  (h.setReg _ _).afterCall _

/-- The register is read after the index word, so an index on PC counts from past that word (R196). -/
theorem State.PlainBus.indexed {s : State} (h : s.PlainBus) (r : Reg) :
    indexed r s = .ok (s.memValue .word s.fetchAddr + s.wordFetched.reg r) s.wordFetched :=
  act_bind_ok h.fetchWord

/-! ### From the address to the location -/

/-- A mode that is not deferred gives the address computed as the location. -/
theorem direct_run {x : Act Word} {s t : State} {a : Word} (address : x s = .ok a t) :
    (x >>= fun a => pure (Loc.mem a)) s = .ok (.mem a) t := act_bind_ok address

/-- A deferred mode reads a word at the address computed, and gives that word as the location. -/
theorem deferred_run {x : Act Word} {s t : State} {p : Word} (pointer : x s = .ok p t) (plain : t.PlainBus) :
    (x >>= fun p => memRead .word p >>= fun a => pure (Loc.mem a)) s =
      .ok (.mem (t.memValue .word (alignWord p))) (t.afterCall (.read (alignWord p) .word)) :=
  (act_bind_ok pointer).trans (direct_run (plain.memRead .word p))

theorem resolve_autoInc (sz : Size) (r : Reg) (s : State) :
    resolve sz ⟨.autoInc, r⟩ s = .ok (.mem (s.reg r)) (s.setReg r (s.reg r + stepSize r sz)) :=
  direct_run (stepUp_run r _ s)

theorem resolve_autoDec (sz : Size) (r : Reg) (s : State) : resolve sz ⟨.autoDec, r⟩ s =
    .ok (.mem (s.reg r - stepSize r sz)) (s.setReg r (s.reg r - stepSize r sz)) :=
  direct_run (stepDown_run r _ s)

/-! ### Immediates -/

/-- PC steps by 2 at either size. -/
theorem resolve_immediate (sz : Size) (s : State) :
    resolve sz ⟨.autoInc, .pc⟩ s = .ok (.mem (s.reg .pc)) (s.setReg .pc (s.reg .pc + 2)) := by
  rw [resolve_autoInc, stepSize_eq, if_pos (.inr (.inr rfl))]

theorem readOperand_immediate (sz : Size) (s : State) : readOperand sz ⟨.autoInc, .pc⟩ s =
    readResolved sz ⟨.autoInc, .pc⟩ (.mem (s.reg .pc)) (s.setReg .pc (s.reg .pc + 2)) :=
  act_bind_ok (resolve_immediate sz s)

theorem readResolved_wordImmediate (a : Word) : readResolved .word ⟨.autoInc, .pc⟩ (.mem a) = memRead .word a := by
  change (memRead .word a >>= fun w => pure (Size.word.trim w)) = memRead .word a
  simp only [trim_word, bind_pure]

theorem readOperand_wordImmediate (s : State) : readOperand .word ⟨.autoInc, .pc⟩ s =
    memRead .word (s.reg .pc) (s.setReg .pc (s.reg .pc + 2)) := by
  rw [readOperand_immediate, readResolved_wordImmediate]

theorem memValue_word_low (s : State) (a : Word) :
    s.memValue .word a &&& 0x00FF = (s.memByte a).zeroExtend 16 := by
  rw [State.memValue, ← lowByte_zeroExtend, lowByte_joinBytes]

/-! ### Bytes of a register -/

/-- Replacing the low byte of a word, by masks. -/
theorem joinBytes_highByte_lowByte (w v : Word) :
    joinBytes (highByte w) (lowByte v) = (w &&& 0xFF00) ||| (v &&& 0x00FF) := by
  apply BitVec.eq_of_getLsbD_eq
  intro i hi
  simp only [joinBytes, highByte, lowByte, BitVec.getLsbD_append, BitVec.getLsbD_extractLsb', BitVec.getLsbD_or,
    BitVec.getLsbD_and]
  interval_cases i <;> simp

theorem msb_lowByte (v : Word) : (lowByte v).msb = v.getLsbD 7 := by
  simp [lowByte, BitVec.msb_eq_getLsbD_last]

theorem not_lowByte (v : Word) : ~~~lowByte v = lowByte (~~~v) := by
  apply BitVec.eq_of_getLsbD_eq
  intro i hi
  simp [lowByte, hi, show i < 16 by omega]

/-- A negative byte is extended by ones, any other by zeros. -/
theorem sext8_lowByte (v : Word) : sext8 (lowByte v) = if v.getLsbD 7 then v ||| 0xFF00 else v &&& 0x00FF := by
  rw [sext8, ← msb_lowByte]
  split
  case isTrue negative =>
    rw [BitVec.signExtend_eq_not_setWidth_not_of_msb_true negative, not_lowByte]
    have zeros : (lowByte (~~~v)).setWidth 16 = ~~~v &&& 0x00FF := lowByte_zeroExtend (~~~v)
    rw [zeros, BitVec.not_and, BitVec.not_not]
    rfl
  case isFalse positive =>
    rw [BitVec.signExtend_eq_setWidth_of_msb_false (by simpa using positive)]
    exact lowByte_zeroExtend v

end Sys2Proof.Machine
end

section
open Sys2Proof Sys2Proof.Machine

/-- Settles O20, mode by mode: how its address is computed, then whether the address is the location or the pointer to
it. -/
theorem modeLocations : Obligations.ModeLocations := by
  intro s r sz plain by_ x f p
  have size : stepSize r sz = by_ := stepSize_eq r sz
  have index : indexed r s = .ok p f := plain.indexed r
  have autoInc := resolve_autoInc sz r s
  have autoDec := resolve_autoDec sz r s
  rw [size] at autoInc autoDec
  exact ⟨rfl, rfl, autoInc, deferred_run (stepUp_run r 2 s) (plain.setReg _ _), autoDec,
    deferred_run (stepDown_run r 2 s) (plain.setReg _ _), direct_run index, deferred_run index plain.wordFetched⟩

/-- Settles O23: an immediate resolves to the old PC at either size, and what is read there is a word, which a byte
operand cuts to its low byte. -/
theorem immediateOperands : Obligations.ImmediateOperands := by
  intro s even t
  have word : readOperand .word ⟨.autoInc, .pc⟩ s = memRead .word (s.reg .pc) t := readOperand_wordImmediate s
  have byteOk (w u) (read : memRead .word (s.reg .pc) t = .ok w u) :
      readOperand .byte ⟨.autoInc, .pc⟩ s = .ok (w &&& 0x00FF) u := by
    rw [readOperand_byteImmediate, word, read]
  refine ⟨word, byteOk, fun e u read => ?_, fun sz l => ?_, fun sz => (readOperand_immediate sz s).symm,
    fun plain => ?_⟩
  · rw [readOperand_byteImmediate, word, read]
  · rw [resolve_immediate]
    exact ⟨fun h => by cases h; rfl, fun h => by rw [h]⟩
  · have aligned : accessAddr .word (s.reg .pc) = s.reg .pc := alignWord_of_even even
    have read := (plain.setReg .pc (s.reg .pc + 2)).memRead .word (s.reg .pc)
    rw [aligned] at read
    have value := byteOk _ _ read
    rw [setReg_memValue, memValue_word_low] at value
    exact ⟨_, value, rfl, setReg_reg_same s .pc _⟩

/-- Settles O21: a memory location is its one access, and the register cases are what `locRead`, `locWrite` and
`storeExtended` make of a byte, put as masks. -/
theorem locationAccess : Obligations.LocationAccess := by
  intro s r a v
  refine ⟨?_, rfl, fun sz => ⟨rfl, by cases sz <;> rfl⟩, rfl, ?_, ?_, rfl⟩
  · rw [locRead, look_run, trim_word]
  · rw [locWrite, update_run, joinBytes_highByte_lowByte]
  · rw [storeExtended, setReg_run, sext8_lowByte]

end

section
/-! PROOFS. Operands as numbers, and the flags that follow a result: the flag engine over the unsigned and the signed
values of its operands (spec/42_flag_engine.md R220 to R229). -/

namespace Sys2Proof.Machine

/-! ### Operands as numbers -/

theorem unsignedValue_lt (sz : Size) (v : Word) : unsignedValue sz v < 2 ^ sz.width :=
  Nat.mod_lt _ (Nat.two_pow_pos _)

theorem msb_eq_width_sub_one (sz : Size) : sz.msb = sz.width - 1 := by cases sz <;> rfl

theorem toNat_trim (sz : Size) (v : Word) : (sz.trim v).toNat = unsignedValue sz v := by
  rw [Size.trim, BitVec.toNat_and]
  cases sz
  · exact Nat.and_two_pow_sub_one_eq_mod v.toNat 16
  · exact Nat.and_two_pow_sub_one_eq_mod v.toNat 8

theorem unsignedValue_of_toNat_mod {sz : Size} {v : Word} {n : Nat} (h : v.toNat = n % 2 ^ 16) :
    unsignedValue sz v = n % 2 ^ sz.width := by
  rw [unsignedValue, h]
  cases sz
  · exact Nat.mod_mod n _
  · exact Nat.mod_mod_of_dvd n ⟨2 ^ 8, rfl⟩

theorem mask_lt_iff (sz : Size) (n : Nat) : sz.mask.toNat < n ↔ 2 ^ sz.width ≤ n := by cases sz <;> exact Iff.rfl

theorem getLsbD_trim (sz : Size) (v : Word) (i : Nat) :
    (sz.trim v).getLsbD i = (decide (i < sz.width) && v.getLsbD i) := by
  rw [← BitVec.testBit_toNat, toNat_trim, unsignedValue, Nat.testBit_mod_two_pow, BitVec.testBit_toNat]

/-- The sign bit says that the unsigned value lies in the upper half of the range. -/
theorem getLsbD_msb (sz : Size) (v : Word) :
    v.getLsbD sz.msb = decide (2 ^ (sz.width - 1) ≤ unsignedValue sz v) := by
  have := v.isLt
  rw [← BitVec.testBit_toNat, Nat.testBit_eq_decide_div_mod_eq, decide_eq_decide]
  cases sz <;> simp only [Size.msb, Size.width, unsignedValue] <;> omega

theorem getLsbD_lowest (sz : Size) (v : Word) : v.getLsbD 0 = decide (unsignedValue sz v % 2 = 1) := by
  rw [← BitVec.testBit_toNat, Nat.testBit_zero, decide_eq_decide]
  cases sz <;> simp only [Size.width, unsignedValue] <;> omega

/-! ### N and Z follow a result -/

theorem trim_eq_zero (sz : Size) (v : Word) : (sz.trim v == 0) = decide (unsignedValue sz v = 0) := by
  rw [← toNat_trim, beq_eq_decide, decide_eq_decide, ← BitVec.toNat_inj]
  rfl

theorem followsResult_setNZ {sz : Size} {r p q : Word} (kept : ∀ i, 4 ≤ i → q.getLsbD i = p.getLsbD i) :
    FollowsResult sz r p (setNZ sz r q) where
  n := by rw [flagN, getLsbD_setNZ, if_pos rfl, msb_eq_width_sub_one]
  z := by rw [flagZ, getLsbD_setNZ, if_neg (by decide), if_pos rfl, trim_eq_zero]
  rest i hi := by rw [getLsbD_setNZ, if_neg (by omega), if_neg (by omega), kept i hi]

/-- V is none of the bits that follow the result. -/
theorem FollowsResult.withV {sz : Size} {r p q : Word} (h : FollowsResult sz r p q) (v : Bool) :
    FollowsResult sz r p (withV v q) where
  n := by rw [flagN, getLsbD_withV, if_neg (by decide), ← h.n, flagN]
  z := by rw [flagZ, getLsbD_withV, if_neg (by decide), ← h.z, flagZ]
  rest i hi := by rw [getLsbD_withV, if_neg (by omega), h.rest i hi]

/-! ### C and V after a write of the flags -/

@[simp] theorem flagC_setNZ (sz : Size) (r p : Word) : flagC (setNZ sz r p) = flagC p := getLsbD_setNZ sz r p 0
@[simp] theorem flagC_withC (b : Bool) (p : Word) : flagC (withC b p) = b := getLsbD_withC b p 0
@[simp] theorem flagC_withV (b : Bool) (p : Word) : flagC (withV b p) = flagC p := getLsbD_withV b p 0
@[simp] theorem flagN_withV (b : Bool) (p : Word) : flagN (withV b p) = flagN p := getLsbD_withV b p 3
@[simp] theorem flagV_setNZ (sz : Size) (r p : Word) : flagV (setNZ sz r p) = flagV p := getLsbD_setNZ sz r p 1
@[simp] theorem flagV_withV (b : Bool) (p : Word) : flagV (withV b p) = b := getLsbD_withV b p 1

section
variable (sz : Size) (a b p : Word) (c : Bool)

/-! ### Addition -/

theorem toNat_addFlags : (addFlags sz a b c p).1.toNat =
    (unsignedValue sz a + unsignedValue sz b + c.toNat) % 2 ^ sz.width := by
  simp only [addFlags, toNat_trim]
  exact unsignedValue_of_toNat_mod (BitVec.toNat_ofNat _ _)

theorem unsignedValue_addFlags : unsignedValue sz (addFlags sz a b c p).1 =
    (unsignedValue sz a + unsignedValue sz b + c.toNat) % 2 ^ sz.width := by
  rw [unsignedValue, toNat_addFlags, Nat.mod_mod]

theorem flagC_addFlags : flagC (addFlags sz a b c p).2 =
    decide (2 ^ sz.width ≤ unsignedValue sz a + unsignedValue sz b + c.toNat) := by
  simp only [addFlags, toNat_trim, mask_lt_iff, flagC_setNZ, flagC_withV, flagC_withC]

/-- V is set where both operands have one sign and the result has the other. -/
theorem flagV_addFlags : flagV (addFlags sz a b c p).2 =
    (a.getLsbD sz.msb == b.getLsbD sz.msb && (addFlags sz a b c p).1.getLsbD sz.msb != a.getLsbD sz.msb) := by
  simp [addFlags]

theorem flagV_addFlags_iff : flagV (addFlags sz a b c p).2 = true ↔
    overflows sz (signedValue sz a + signedValue sz b + c.toNat) := by
  have := unsignedValue_lt sz a
  have := unsignedValue_lt sz b
  have := c.toNat_lt
  simp only [flagV_addFlags, getLsbD_msb, unsignedValue_addFlags, Bool.and_eq_true, beq_iff_eq, bne_iff_ne, ne_eq,
    decide_eq_decide, signedValue, overflows]
  cases sz <;> simp only [Size.width] at * <;> omega

theorem followsResult_addFlags :
    FollowsResult sz (addFlags sz a b c p).1 p (addFlags sz a b c p).2 :=
  followsResult_setNZ fun i hi => by rw [getLsbD_withV, if_neg (by omega), getLsbD_withC, if_neg (by omega)]

/-! ### Subtraction -/

theorem toNat_subFlags : ((subFlags sz a b c p).1.toNat : Int) =
    ((unsignedValue sz a : Int) - unsignedValue sz b - c.toNat) % 2 ^ sz.width := by
  simp only [subFlags, toNat_trim]
  rw [unsignedValue, BitVec.toNat_ofInt]
  cases sz <;> simp only [Size.width] <;> omega

theorem unsignedValue_subFlags : (unsignedValue sz (subFlags sz a b c p).1 : Int) =
    ((unsignedValue sz a : Int) - unsignedValue sz b - c.toNat) % 2 ^ sz.width := by
  rw [unsignedValue, Int.natCast_emod, toNat_subFlags]
  exact Int.emod_emod_of_dvd _ (dvd_of_eq (by simp))

theorem flagC_subFlags : flagC (subFlags sz a b c p).2 =
    decide ((unsignedValue sz a : Int) - unsignedValue sz b - c.toNat < 0) := by
  simp only [subFlags, toNat_trim, flagC_setNZ, flagC_withV, flagC_withC]

/-- V is set where the operands differ in sign and the result's is not the first operand's. -/
theorem flagV_subFlags : flagV (subFlags sz a b c p).2 =
    (a.getLsbD sz.msb != b.getLsbD sz.msb && (subFlags sz a b c p).1.getLsbD sz.msb != a.getLsbD sz.msb) := by
  simp [subFlags]

theorem flagV_subFlags_iff : flagV (subFlags sz a b c p).2 = true ↔
    overflows sz (signedValue sz a - signedValue sz b - c.toNat) := by
  have := unsignedValue_lt sz a
  have := unsignedValue_lt sz b
  have := c.toNat_lt
  have := unsignedValue_subFlags sz a b p c
  simp only [flagV_subFlags, getLsbD_msb, Bool.and_eq_true, bne_iff_ne, ne_eq,
    decide_eq_decide, signedValue, overflows]
  cases sz <;> simp only [Size.width] at * <;> omega

theorem followsResult_subFlags :
    FollowsResult sz (subFlags sz a b c p).1 p (subFlags sz a b c p).2 :=
  followsResult_setNZ fun i hi => by rw [getLsbD_withV, if_neg (by omega), getLsbD_withC, if_neg (by omega)]

/-! ### A compare -/

theorem signedValue_eq_iff : signedValue sz a = signedValue sz b ↔ unsignedValue sz a = unsignedValue sz b := by
  have := unsignedValue_lt sz a
  have := unsignedValue_lt sz b
  simp only [signedValue]
  cases sz <;> simp only [Size.width] at * <;> omega

theorem condEq_cmpFlags : condEq (cmpFlags sz a b p) = decide (unsignedValue sz a = unsignedValue sz b) := by
  have := unsignedValue_lt sz a
  have := unsignedValue_lt sz b
  have difference := unsignedValue_subFlags sz a b p false
  rw [condEq, cmpFlags, (followsResult_subFlags sz a b p false).z, decide_eq_decide]
  cases sz <;> simp only [Size.width, Bool.toNat_false] at * <;> omega

theorem condCs_cmpFlags : condCs (cmpFlags sz a b p) = decide (unsignedValue sz a < unsignedValue sz b) := by
  rw [condCs, cmpFlags, flagC_subFlags, decide_eq_decide]
  simp only [Bool.toNat_false]
  omega

/-- The sign of the difference is right unless the subtraction overflows, and V says when it does. -/
theorem condLt_cmpFlags : condLt (cmpFlags sz a b p) = decide (signedValue sz a < signedValue sz b) := by
  have := unsignedValue_lt sz a
  have := unsignedValue_lt sz b
  have difference := unsignedValue_subFlags sz a b p false
  rw [condLt, cmpFlags, (followsResult_subFlags sz a b p false).n, ← msb_eq_width_sub_one, getLsbD_msb,
    Bool.eq_iff_iff, Bool.xor_iff_ne, ne_eq, Bool.eq_iff_iff, flagV_subFlags_iff, decide_eq_true_iff,
    decide_eq_true_iff]
  simp only [signedValue, overflows]
  cases sz <;> simp only [Size.width, Bool.toNat_false] at * <;> omega

end

/-! ### Shifts and rotates -/

theorem withBit_false_of_clear {i : Nat} {w : Word} (hi : i < 16) (clear : w.getLsbD i = false) :
    withBit i false w = w := BitVec.eq_of_getLsbD_eq fun j _ => by
  rw [getLsbD_withBit hi]
  split
  · subst j; exact clear.symm
  · rfl

/-- Setting a bit that is clear adds its weight. -/
theorem toNat_withBit_of_clear {i : Nat} {w : Word} (hi : i < 16) (clear : w.getLsbD i = false) (b : Bool) :
    (withBit i b w).toNat = w.toNat + b.toNat * 2 ^ i := by
  cases b with
  | false => rw [withBit_false_of_clear hi clear, Bool.toNat_false, Nat.zero_mul, Nat.add_zero]
  | true =>
    have apart : w &&& BitVec.twoPow 16 i = 0#16 := by rw [BitVec.and_twoPow, clear]; rfl
    rw [withBit, if_pos rfl, ← BitVec.twoPow_eq, ← BitVec.add_eq_or_of_and_eq_zero _ _ apart,
      BitVec.toNat_add_of_and_eq_zero apart, BitVec.toNat_twoPow_of_lt hi, Bool.toNat_true, Nat.one_mul]

/-- A right shift with `b` for the new sign bit. -/
theorem toNat_shiftRight_withMsb (sz : Size) (x : Word) (b : Bool) :
    (withBit sz.msb b (sz.trim x >>> 1)).toNat = unsignedValue sz x / 2 + b.toNat * 2 ^ (sz.width - 1) := by
  rw [toNat_withBit_of_clear (by cases sz <;> decide) ?clear, BitVec.toNat_ushiftRight, toNat_trim,
    msb_eq_width_sub_one, Nat.shiftRight_one]
  case clear =>
    rw [BitVec.getLsbD_ushiftRight, getLsbD_trim]
    cases sz <;> rfl

/-- A left shift with `b` for the new low bit. -/
theorem toNat_shiftLeft_withLow (sz : Size) (x : Word) (b : Bool) :
    (sz.trim (withBit 0 b (x <<< 1))).toNat = (2 * unsignedValue sz x + b.toNat) % 2 ^ sz.width := by
  have := b.toNat_lt
  rw [toNat_trim, unsignedValue, toNat_withBit_of_clear (by decide) (by simp), BitVec.toNat_shiftLeft,
    Nat.shiftLeft_eq, unsignedValue]
  cases sz <;> simp only [Size.width] <;> omega

theorem toNat_shiftLeft (sz : Size) (x : Word) :
    (sz.trim (x <<< 1)).toNat = 2 * unsignedValue sz x % 2 ^ sz.width := by
  rw [← withBit_false_of_clear (w := x <<< 1) (i := 0) (by decide) (by simp), toNat_shiftLeft_withLow]
  rfl

theorem flagC_shiftFlags (sz : Size) (r : Word) (c : Bool) (p : Word) : flagC (shiftFlags sz r c p) = c := by
  rw [shiftFlags, flagC_withV, flagC_setNZ, flagC_withC]

theorem flagV_shiftFlags (sz : Size) (r : Word) (c : Bool) (p : Word) :
    flagV (shiftFlags sz r c p) = (flagN (shiftFlags sz r c p) ^^ flagC (shiftFlags sz r c p)) := by
  simp only [shiftFlags, flagV_withV, flagN_withV, flagC_withV]

theorem followsResult_shiftFlags (sz : Size) (r : Word) (c : Bool) (p : Word) :
    FollowsResult sz r p (shiftFlags sz r c p) :=
  (followsResult_setNZ fun i hi => by rw [getLsbD_withC, if_neg (by omega)]).withV _

end Sys2Proof.Machine
end

section
open Sys2Proof Sys2Proof.Machine

/-- Settles O24: the sum is cut to the operand's size, the carry is what the cut leaves off, and V compares signs. -/
theorem additionAndFlags : Obligations.AdditionAndFlags := by
  refine ⟨fun sz a b p cin => ⟨toNat_addFlags sz a b p cin, flagC_addFlags sz a b p cin,
    flagV_addFlags_iff sz a b p cin, followsResult_addFlags sz a b p cin⟩, fun p => ?_⟩
  have ends (a) := followsResult_addFlags .word a 1 p false
  have largest : (addFlags .word 0x7FFF 1 false p).1 = 0x8000 := rfl
  have around : (addFlags .word 0xFFFF 1 false p).1 = 0x0000 := rfl
  simp only [(ends _).n, (ends _).z, flagC_addFlags, flagV_addFlags, largest, around]
  decide

/-- Settles O25: the borrow is the sign of the untrimmed difference, and V compares signs. -/
theorem subtractionAndFlags : Obligations.SubtractionAndFlags := fun sz a b p bin =>
  ⟨toNat_subFlags sz a b p bin, flagC_subFlags sz a b p bin, flagV_subFlags_iff sz a b p bin,
    followsResult_subFlags sz a b p bin⟩

/-- Settles O26: the flags of a result, then the results bit by bit. -/
theorem logicResults : Obligations.LogicResults := by
  intro sz x d p
  refine ⟨fun r => ⟨?_, ?_, ?_⟩, fun i => ?_, fun i => ?_, fun i => BitVec.getLsbD_xor, rfl, rfl, rfl, rfl⟩
  · exact (followsResult_setNZ fun _ _ => rfl).withV false
  · rw [logicFlags, flagV_withV]
  · rw [logicFlags, flagC_withV, flagC_setNZ]
  · have inWord : i < sz.width → i < 16 := by cases sz <;> simp only [Size.width] <;> omega
    rw [bicResult, getLsbD_trim, BitVec.getLsbD_and, BitVec.getLsbD_not]
    by_cases inOperand : i < sz.width <;> simp [inOperand, inWord]
  · rw [bisResult, getLsbD_trim, BitVec.getLsbD_or]

/-- Settles O27: a right shift puts a bit at the top, a left shift one at the bottom; the flags are one function's. -/
theorem shiftResults : Obligations.ShiftResults := by
  intro sz x p v c top follows
  have flags (r b) : FollowsResult sz r p (shiftFlags sz r b p) ∧ flagV (shiftFlags sz r b p) =
      (flagN (shiftFlags sz r b p) ^^ flagC (shiftFlags sz r b p)) :=
    ⟨followsResult_shiftFlags sz r b p, flagV_shiftFlags sz r b p⟩
  have low : x.getLsbD 0 = decide (v % 2 = 1) := getLsbD_lowest sz x
  have high : x.getLsbD sz.msb = decide (top ≤ v) := getLsbD_msb sz x
  refine ⟨⟨?_, ?_, flags _ _⟩, ⟨?_, ?_, flags _ _⟩, ⟨?_, ?_, flags _ _⟩, ⟨?_, ?_, flags _ _⟩⟩
  · exact toNat_shiftRight_withMsb sz x (flagC p)
  · exact (flagC_shiftFlags ..).trans low
  · exact toNat_shiftLeft_withLow sz x (flagC p)
  · exact (flagC_shiftFlags ..).trans high
  · refine (toNat_shiftRight_withMsb sz x _).trans ?_
    rw [high]
    by_cases k : top ≤ v <;> simp [k, v, top]
  · exact (flagC_shiftFlags ..).trans low
  · exact toNat_shiftLeft sz x
  · exact (flagC_shiftFlags ..).trans high

/-- Settles O29: a compare decides equality, signed and unsigned order; the other tests are their negations and
disjunctions. -/
theorem compareThenBranch : Obligations.CompareThenBranch := by
  intro sz a b p q ua ub sa sb
  have eq : condEq q = decide (ua = ub) := condEq_cmpFlags sz a b p
  have lt : condLt q = decide (sa < sb) := condLt_cmpFlags sz a b p
  have below : condCs q = decide (ua < ub) := condCs_cmpFlags sz a b p
  have le : condLe q = decide (sa ≤ sb) := by
    change (condEq q || condLt q) = _
    rw [eq, lt, ← Bool.decide_or, decide_eq_decide, ← signedValue_eq_iff, or_comm, ← le_iff_lt_or_eq]
  have atMost : condLos q = decide (ua ≤ ub) := by
    change (condCs q || condEq q) = _
    rw [eq, below, ← Bool.decide_or, decide_eq_decide, ← le_iff_lt_or_eq]
  have other {test : Bool} {order : Prop} [Decidable order] (h : test = decide order) :
      (!test) = decide (¬ order) := by rw [h, decide_not]
  refine ⟨eq, other eq, ?_, lt, ?_, le, ?_, below, ?_, atMost⟩
  · exact (other lt).trans (decide_eq_decide.mpr not_lt)
  · exact (other le).trans (decide_eq_decide.mpr not_le)
  · exact (other below).trans (decide_eq_decide.mpr not_lt)
  · exact (other atMost).trans (decide_eq_decide.mpr not_le)

end

section
/-! PROOFS. The frame of the word instructions that write a destination (spec/43_double_operand.md,
spec/44_single_operand.md; spec/42_flag_engine.md R225). -/

namespace Sys2Proof.Machine

/-! ### The PSW bits of the carry and shift instructions -/

theorem changes_neg (sz : Size) (x : Word) : Changes flagsNZVC fun p => (negResult sz x p).2 :=
  changes_subFlags sz 0 x fun _ => false

theorem changes_adc (sz : Size) (x : Word) : Changes flagsNZVC fun p => (adcResult sz x p).2 :=
  changes_addFlags sz x 0 flagC

theorem changes_sbc (sz : Size) (x : Word) : Changes flagsNZVC fun p => (sbcResult sz x p).2 :=
  changes_subFlags sz x 0 flagC

theorem changes_ror (sz : Size) (x : Word) : Changes flagsNZVC fun p => (rorResult sz x p).2 :=
  changes_shiftFlags sz (fun p => (rorResult sz x p).1) _

theorem changes_rol (sz : Size) (x : Word) : Changes flagsNZVC fun p => (rolResult sz x p).2 :=
  changes_shiftFlags sz (fun p => (rolResult sz x p).1) _

theorem changes_asr (sz : Size) (x : Word) : Changes flagsNZVC fun p => (asrResult sz x p).2 :=
  changes_shiftFlags sz (fun p => (asrResult sz x p).1) _

theorem changes_asl (sz : Size) (x : Word) : Changes flagsNZVC fun p => (aslResult sz x p).2 :=
  changes_shiftFlags sz (fun p => (aslResult sz x p).1) _

/-! ### The frame of a destination, from the PSW bits of the result -/

section
variable {sz : Size} {dst : Operand} {status : Nat → Prop} {s t : State}

theorem frame_readModifyWrite {f : Word → Word → Word × Word} (started : s.Started)
    (flags : ∀ x, Changes status fun p => (f x p).2) (h : perform .ordinary (readModifyWrite sz dst f) s = .next t) :
    Frame (writesOne dst) status (storedAt sz (destAddr sz dst s) s) s t :=
  (readModifyWrite_keeps flags).frame (.inl rfl) started h

theorem frame_writeOnly {f : Word → Word × Word} (started : s.Started)
    (flags : Changes status fun p => (f p).2) (h : perform .ordinary (writeOnly sz dst f) s = .next t) :
    Frame (writesOne dst) status (storedAt sz (destAddr sz dst s) s) s t :=
  (writeOnly_keeps flags).frame (.inl rfl) started h

theorem frame_combine {src : Operand} {f : Word → Word → Word → Word × Word} (started : s.Started)
    (flags : ∀ v x, Changes status fun p => (f v x p).2)
    (h : perform .ordinary (combine sz src dst f) s = .next t) :
    Frame (writesTwo src dst) status (storedAt sz (destAddrAfter sz src dst s) s) s t :=
  (keeps_after_source fun v _ => readModifyWrite_keeps (flags v)).frame (.inl rfl) started h

end

end Sys2Proof.Machine
end

section
open Sys2Proof Sys2Proof.Machine

/-- Settles O46: each instruction is one of three shapes of operand use, and its frame is that shape's with the flags of
its rule. -/
theorem wordWriteFrame : Obligations.WordWriteFrame := by
  intro src dst s t started
  refine ⟨?_, ?_, ?_, ?_, frame_writeOnly started changes_sxt⟩
  · rintro (h | h | h)
    · exact (keeps_after_source fun v _ => writeOnly_keeps (changes_logicFlags .word v)).frame (.inl rfl) started h
    · exact frame_combine started (fun _ _ => changes_logicFlags .word _) h
    · exact frame_combine started (fun _ _ => changes_logicFlags .word _) h
  · rintro (h | h)
    · exact frame_combine started (fun v x => changes_addFlags .word v x fun _ => false) h
    · exact frame_combine started (fun v x => changes_subFlags .word x v fun _ => false) h
  · rintro (⟨r, h⟩ | h | h)
    · exact frame_readModifyWrite started (f := xorResult (s.reg r)) (fun _ => changes_logicFlags .word _) h
    · exact frame_readModifyWrite started (changes_inc .word) h
    · exact frame_readModifyWrite started (changes_dec .word) h
  · rintro (h | h | h | h | h | h | h | h | h | h)
    · exact frame_writeOnly started changes_clr h
    · exact frame_readModifyWrite started (changes_com .word) h
    · exact frame_readModifyWrite started (changes_neg .word) h
    · exact frame_readModifyWrite started (changes_adc .word) h
    · exact frame_readModifyWrite started (changes_sbc .word) h
    · exact frame_readModifyWrite started (changes_ror .word) h
    · exact frame_readModifyWrite started (changes_rol .word) h
    · exact frame_readModifyWrite started (changes_asr .word) h
    · exact frame_readModifyWrite started (changes_asl .word) h
    · exact frame_readModifyWrite started changes_swab h

end

section
/-! PROOFS. The shapes in which an instruction of one or two operands completes on a bus that answers, and the frame of
the shapes that write no destination. -/

namespace Sys2Proof.Machine

/-! ### The operand shapes complete -/

/-- Once the first part of a rule has ended, the instruction is what follows it, run from the state reached. -/
theorem perform_bind_ok {α : Type} {how : Completion} {x : Act α} {rest : α → Act Unit} {s t : State} {a : α}
    (part : x s = .ok a t) : perform how (x >>= rest) s = perform how (rest a) t := by
  rw [perform, perform, act_bind_ok part]

section
variable {sz : Size} {s : State} (serves : s.BusServes)
include serves

theorem modifies_readModifyWrite (dst : Operand) (f : Word → Word → Word × Word) :
    Modifies sz dst f s (perform .ordinary (readModifyWrite sz dst f) s) := by
  obtain ⟨l, s1, x, s2, s3, resolved, read, written, run⟩ := readModifyWrite_ends dst f serves
  exact ⟨l, s1, x, s2, s3, resolved, read, written, perform_ok run⟩

theorem overwrites_writeOnly (dst : Operand) (f : Word → Word × Word) :
    Overwrites sz dst f s (perform .ordinary (writeOnly sz dst f) s) := by
  obtain ⟨l, s1, s2, resolved, written, run⟩ := writeOnly_ends dst f serves
  exact ⟨l, s1, s2, resolved, written, perform_ok run⟩

theorem inspects_readOnly (o : Operand) (f : Word → Word → Word) :
    Inspects sz o f s (perform .ordinary (readOnly sz o f) s) := by
  obtain ⟨x, s1, read, run⟩ := readOnly_ends o f serves
  exact ⟨x, s1, read, perform_ok run⟩

theorem storesByte_storeExtended (dst : Operand) (v : Word) :
    StoresByte dst v s (perform .ordinary (do
      let l ← resolve .byte dst
      storeExtended l v
      update fun s => s.setPsw (logicFlags .byte v s.psw)) s) := by
  obtain ⟨l, s1, s2, resolved, stored⟩ := storesByte_ends dst v serves
  refine ⟨l, s1, s2, resolved, stored, perform_ok ?_⟩
  rw [act_bind_ok resolved, act_bind_ok stored, update_run]

/-- The bus still answers after the source, so the rest of the rule completes in its shape, from the state that the
source leaves. -/
theorem completes_after_source {shape : Word → State → Host.Outcome State Fault Refusal → Prop} (src : Operand)
    {rest : Word → Act Unit} (complete : ∀ v t, t.BusServes → shape v t (perform .ordinary (rest v) t)) :
    ∃ v t, readOperand sz src s = .ok v t ∧ shape v t (perform .ordinary (readOperand sz src >>= rest) s) := by
  obtain ⟨v, t, read, answers⟩ := serves_readOperand sz src s serves
  refine ⟨v, t, read, ?_⟩
  rw [perform_bind_ok read]
  exact complete v t answers

theorem combines_combine (src dst : Operand) (f : Word → Word → Word → Word × Word) :
    Combines sz src dst f s (perform .ordinary (combine sz src dst f) s) := by
  obtain ⟨v, s1, source, l, s2, x, s3, s4, modified⟩ :=
    completes_after_source serves src fun v _ answers => modifies_readModifyWrite answers dst (f v)
  exact ⟨v, s1, l, s2, x, s3, s4, source, modified⟩

theorem compares_readBoth (src dst : Operand) (f : Word → Word → Word → Word) :
    Compares sz src dst f s (perform .ordinary (readBoth sz src dst f) s) := by
  obtain ⟨v, s1, source, x, s2, inspected⟩ :=
    completes_after_source serves src fun v _ answers => inspects_readOnly answers dst (f v)
  exact ⟨v, s1, x, s2, source, inspected⟩

end

/-! ### The frame of the shapes that only read -/

theorem changes_cmp (sz : Size) (x d : Word) : Changes flagsNZVC (cmpFlags sz x d) :=
  changes_subFlags sz x d fun _ => false

theorem changes_bit (sz : Size) (x d : Word) : Changes flagsNZV (bitFlags sz x d) :=
  changes_logicFlags sz (x &&& d)

section
variable {sz : Size} {dst : Operand} {status : Nat → Prop} {s t : State}

theorem frame_readOnly {f : Word → Word → Word} (started : s.Started) (flags : ∀ x, Changes status (f x))
    (h : perform .ordinary (readOnly sz dst f) s = .next t) :
    Frame (fun r => r = .pc ∨ stepsReg dst r) status (fun _ => False) s t :=
  (readOnly_keeps flags).frame (.inl rfl) started h

theorem frame_readBoth {src : Operand} {f : Word → Word → Word → Word} (started : s.Started)
    (flags : ∀ v x, Changes status (f v x)) (h : perform .ordinary (readBoth sz src dst f) s = .next t) :
    Frame (fun r => r = .pc ∨ stepsReg src r ∨ stepsReg dst r) status (fun _ => False) s t :=
  (readBoth_keeps flags).frame (.inl rfl) started h

end

end Sys2Proof.Machine
end

section
open Sys2Proof Sys2Proof.Machine

/-- Settles O31: the six rules are one shape, a source and then a destination read, modified and written; ADD and SUB
give their operands to the flag engine in the order of the statement. -/
theorem twoOperandResults : Obligations.TwoOperandResults := by
  intro src dst s serves
  refine ⟨?_, ?_, ?_, ?_, ?_, ?_⟩
  · exact combines_combine serves src dst addResult
  · exact combines_combine serves src dst subResult
  · exact combines_combine serves src dst (bicResult .word)
  · exact combines_combine serves src dst (bicResult .byte)
  · exact combines_combine serves src dst (bisResult .word)
  · exact combines_combine serves src dst (bisResult .byte)

/-- Settles O32: MOV and MOVB store from the state their source leaves; XOR and MFPS take their source from the state
before the destination is resolved. -/
theorem moveResults : Obligations.MoveResults := by
  intro src dst r s serves
  refine ⟨?_, ?_, ?_, ?_⟩
  · exact completes_after_source serves src fun v _ answers =>
      overwrites_writeOnly answers dst fun p => (v, logicFlags .word v p)
  · exact completes_after_source serves src fun v _ answers => storesByte_storeExtended answers dst v
  · exact modifies_readModifyWrite serves dst (xorResult (s.reg r))
  · exact storesByte_storeExtended serves dst (Size.byte.trim s.psw)

/-- Settles O33: two operands read, or one, and then the flags of the rule alone. -/
theorem readOnlyResults : Obligations.ReadOnlyResults := by
  intro src dst s serves
  refine ⟨?_, ?_, ?_, ?_, ?_, ?_, ?_⟩
  · exact compares_readBoth serves src dst (cmpFlags .word)
  · exact compares_readBoth serves src dst (cmpFlags .byte)
  · exact compares_readBoth serves src dst (bitFlags .word)
  · exact compares_readBoth serves src dst (bitFlags .byte)
  · exact inspects_readOnly serves dst (tstFlags .word)
  · exact inspects_readOnly serves dst (tstFlags .byte)
  · exact inspects_readOnly serves src mtpsPsw

/-- Settles O48: the frame of the shape that only reads, with the PSW bits of each rule; an abort has it too. -/
theorem readOnlyFrame : Obligations.ReadOnlyFrame := by
  intro src dst s t started two one
  refine ⟨?_, ?_, ?_, frame_readOnly started changes_mtps⟩
  · rintro (h | h)
    · exact frame_readBoth started (changes_cmp .word) h
    · exact frame_readBoth started (changes_cmp .byte) h
  · rintro (h | h)
    · exact frame_readBoth started (changes_bit .word) h
    · exact frame_readBoth started (changes_bit .byte) h
  · rintro (h | h)
    · exact frame_readOnly started (changes_tst .word) h
    · exact frame_readOnly started (changes_tst .byte) h

end

section
/-! PROOFS. What the single-operand instructions compute, as numbers, and the flags they leave (spec/44_single_operand.md
R300 to R340). -/

namespace Sys2Proof.Machine

/-! ### C is none of the bits that follow a result -/

theorem FollowsResult.withC {sz : Size} {r p q : Word} (h : FollowsResult sz r p q) (c : Bool) :
    FollowsResult sz r p (withC c q) where
  n := by rw [flagN, getLsbD_withC, if_neg (by decide), ← h.n, flagN]
  z := by rw [flagZ, getLsbD_withC, if_neg (by decide), ← h.z, flagZ]
  rest i hi := by rw [getLsbD_withC, if_neg (by omega), h.rest i hi]

@[simp] theorem flagV_withC (b : Bool) (p : Word) : flagV (withC b p) = flagV p := getLsbD_withC b p 1

/-- N and Z from the result, in a PSW of which nothing else has changed yet. -/
theorem followsResult_setNZ_self (sz : Size) (r p : Word) : FollowsResult sz r p (setNZ sz r p) :=
  followsResult_setNZ fun _ _ => rfl

/-! ### Complement, increment and decrement -/

section
variable (sz : Size) (x p : Word)

theorem trim_beq (k : Word) : (sz.trim x == k) = decide (unsignedValue sz x = k.toNat) := by
  rw [← toNat_trim, beq_eq_decide, decide_eq_decide, BitVec.toNat_inj]

theorem toNat_trim_not : (sz.trim (~~~x)).toNat = 2 ^ sz.width - 1 - unsignedValue sz x := by
  have := x.isLt
  rw [toNat_trim, unsignedValue, unsignedValue, BitVec.toNat_not]
  cases sz <;> simp only [Size.width] <;> omega

theorem toNat_trim_add_one : (sz.trim (x + 1)).toNat = (unsignedValue sz x + 1) % 2 ^ sz.width := by
  rw [toNat_trim, unsignedValue_of_toNat_mod (BitVec.toNat_add x 1), unsignedValue, Nat.mod_add_mod]
  rfl

theorem toNat_trim_sub_one :
    (sz.trim (x - 1)).toNat = (unsignedValue sz x + 2 ^ sz.width - 1) % 2 ^ sz.width := by
  rw [toNat_trim, unsignedValue_of_toNat_mod (BitVec.toNat_sub x 1), unsignedValue, show (1 : Word).toNat = 1 from rfl]
  cases sz <;> simp only [Size.width] <;> omega

/-- INC overflows from the largest positive value. -/
theorem flagV_incResult :
    flagV (incResult sz x p).2 = decide (unsignedValue sz x = 2 ^ (sz.width - 1) - 1) := by
  rw [incResult, flagV_withV, trim_beq]
  cases sz <;> rfl

/-- DEC overflows from the most negative value. -/
theorem flagV_decResult : flagV (decResult sz x p).2 = decide (unsignedValue sz x = 2 ^ (sz.width - 1)) := by
  rw [decResult, flagV_withV, trim_beq]
  cases sz <;> rfl

/-! ### Negation, and the carry added or subtracted: an operand of the flag engine is 0 -/

theorem unsignedValue_zero : unsignedValue sz 0 = 0 := Nat.zero_mod _

theorem toNat_negResult : (negResult sz x p).1.toNat = (2 ^ sz.width - unsignedValue sz x) % 2 ^ sz.width := by
  have := unsignedValue_lt sz x
  have difference := toNat_subFlags sz 0 x p false
  rw [negResult]
  cases sz <;> simp only [Size.width, unsignedValue_zero, Bool.toNat_false] at * <;> omega

/-- NEG overflows on the most negative value, which has no negation. -/
theorem flagV_negResult : flagV (negResult sz x p).2 = decide (unsignedValue sz x = 2 ^ (sz.width - 1)) := by
  have := unsignedValue_lt sz x
  rw [negResult, Bool.eq_iff_iff, flagV_subFlags_iff, decide_eq_true_iff]
  simp only [overflows, signedValue, unsignedValue_zero, Bool.toNat_false]
  cases sz <;> simp only [Size.width] at * <;> omega

theorem flagC_negResult : flagC (negResult sz x p).2 = decide (unsignedValue sz x ≠ 0) := by
  rw [negResult, flagC_subFlags, decide_eq_decide, unsignedValue_zero, Bool.toNat_false]
  omega

theorem toNat_adcResult :
    (adcResult sz x p).1.toNat = (unsignedValue sz x + (flagC p).toNat) % 2 ^ sz.width := by
  rw [adcResult, toNat_addFlags, unsignedValue_zero, Nat.add_zero]

/-- ADC overflows as INC does, where it adds a carry. -/
theorem flagV_adcResult : flagV (adcResult sz x p).2 =
    decide (unsignedValue sz x = 2 ^ (sz.width - 1) - 1 ∧ (flagC p).toNat = 1) := by
  have := unsignedValue_lt sz x
  have := (flagC p).toNat_lt
  rw [adcResult, Bool.eq_iff_iff, flagV_addFlags_iff, decide_eq_true_iff]
  simp only [overflows, signedValue, unsignedValue_zero]
  cases sz <;> simp only [Size.width] at * <;> omega

theorem flagC_adcResult : flagC (adcResult sz x p).2 =
    decide (unsignedValue sz x = 2 ^ sz.width - 1 ∧ (flagC p).toNat = 1) := by
  have := unsignedValue_lt sz x
  have := (flagC p).toNat_lt
  rw [adcResult, flagC_addFlags, decide_eq_decide, unsignedValue_zero]
  omega

theorem toNat_sbcResult : (sbcResult sz x p).1.toNat =
    (unsignedValue sz x + 2 ^ sz.width - (flagC p).toNat) % 2 ^ sz.width := by
  have := unsignedValue_lt sz x
  have := (flagC p).toNat_lt
  have difference := toNat_subFlags sz x 0 p (flagC p)
  rw [sbcResult]
  cases sz <;> simp only [Size.width, unsignedValue_zero] at * <;> omega

/-- SBC overflows as DEC does, where it subtracts a carry. -/
theorem flagV_sbcResult : flagV (sbcResult sz x p).2 =
    decide (unsignedValue sz x = 2 ^ (sz.width - 1) ∧ (flagC p).toNat = 1) := by
  have := unsignedValue_lt sz x
  have := (flagC p).toNat_lt
  rw [sbcResult, Bool.eq_iff_iff, flagV_subFlags_iff, decide_eq_true_iff]
  simp only [overflows, signedValue, unsignedValue_zero]
  cases sz <;> simp only [Size.width] at * <;> omega

theorem flagC_sbcResult : flagC (sbcResult sz x p).2 =
    decide (unsignedValue sz x = 0 ∧ (flagC p).toNat = 1) := by
  have := (flagC p).toNat_lt
  rw [sbcResult, flagC_subFlags, decide_eq_decide, unsignedValue_zero]
  omega

end

/-! ### Clear -/

/-- CLR writes the flags of the result 0. -/
theorem clrResult_eq_setNZ (p : Word) : clrResult p = (0, setNZ .word 0 (withV false (withC false p))) := rfl

/-! ### Byte swap and the status byte -/

theorem toNat_joinBytes (hi lo : Byte) : (joinBytes hi lo).toNat = hi.toNat * 256 + lo.toNat := by
  rw [joinBytes, BitVec.toNat_append, ← Nat.shiftLeft_add_eq_or_of_lt lo.isLt, Nat.shiftLeft_eq]

theorem toNat_lowByte (w : Word) : (lowByte w).toNat = w.toNat % 256 := by
  rw [lowByte, BitVec.extractLsb'_toNat, Nat.shiftRight_zero]

theorem toNat_highByte (w : Word) : (highByte w).toNat = w.toNat / 256 := by
  have := w.isLt
  rw [highByte, BitVec.extractLsb'_toNat, Nat.shiftRight_eq_div_pow]
  omega

theorem priority_mtpsPsw (v p : Word) : priority (mtpsPsw v p) = priority v :=
  BitVec.eq_of_getLsbD_eq fun i hi => by
    rw [priority, priority, BitVec.getLsbD_extractLsb', BitVec.getLsbD_extractLsb', getLsbD_mtps, if_pos (by omega)]

end Sys2Proof.Machine
end

section
open Sys2Proof Sys2Proof.Machine

/-- Settles O28: COM, INC, DEC and TST set N and Z and then their own flags; NEG, ADC and SBC are the flag engine's
addition and subtraction with 0 for an operand. -/
theorem unaryResults : Obligations.UnaryResults := by
  intro sz x p v c size top gives
  have nz (r : Word) : FollowsResult sz r p (setNZ sz r p) := followsResult_setNZ_self sz r p
  refine ⟨⟨toNat_trim_not sz x, ?_, ?_, ((nz _).withV false).withC true⟩,
    ⟨toNat_trim_add_one sz x, flagV_incResult sz x p, ?_, (nz _).withV _⟩,
    ⟨toNat_trim_sub_one sz x, flagV_decResult sz x p, ?_, (nz _).withV _⟩,
    ⟨toNat_negResult sz x p, flagV_negResult sz x p, flagC_negResult sz x p, followsResult_subFlags ..⟩,
    ⟨toNat_adcResult sz x p, flagV_adcResult sz x p, flagC_adcResult sz x p, followsResult_addFlags ..⟩,
    ⟨toNat_sbcResult sz x p, flagV_sbcResult sz x p, flagC_sbcResult sz x p, followsResult_subFlags ..⟩,
    ((nz x).withV false).withC false, ?_, ?_⟩
  · rw [comResult, flagV_withC, flagV_withV]
  · rw [comResult, flagC_withC]
  · rw [incResult, flagC_withV, flagC_setNZ]
  · rw [decResult, flagC_withV, flagC_setNZ]
  · rw [tstFlags, flagV_withC, flagV_withV]
  · rw [tstFlags, flagC_withC]

/-- Settles O30: SWAB sets N and Z at byte size; CLR sets them as the result 0 does; SXT writes V and Z and no other
bit; MTPS is a choice between two words bit by bit. -/
theorem statusAndSwapResults : Obligations.StatusAndSwapResults := by
  intro x p
  refine ⟨⟨?_, ((followsResult_setNZ_self .byte _ p).withV false).withC false, ?_, ?_⟩, ⟨rfl, ?_, ?_, ?_⟩,
    ⟨rfl, ?_, ?_, ?_⟩, priority_mtpsPsw x p, ?_, ?_⟩
  · rw [swabResult, toNat_joinBytes, toNat_lowByte, toNat_highByte]
  · rw [swabResult, flagV_withC, flagV_withV]
  · rw [swabResult, flagC_withC]
  · rw [sxtResult, flagZ, getLsbD_withV, if_neg (by decide), getLsbD_withZ, if_pos rfl]
  · rw [sxtResult, flagV_withV]
  · exact fun i notV notZ => changes_sxt p i (not_or.mpr ⟨notV, notZ⟩)
  · rw [clrResult_eq_setNZ]
    exact followsResult_setNZ fun i hi => by rw [getLsbD_withV, if_neg (by omega), getLsbD_withC, if_neg (by omega)]
  · rw [clrResult_eq_setNZ, flagV_setNZ, flagV_withV]
  · rw [clrResult_eq_setNZ, flagC_setNZ, flagC_withV, flagC_withC]
  · exact fun i low => by rw [getLsbD_mtps, if_pos (by omega)]
  · exact fun i other => by rw [getLsbD_mtps, if_neg (by omega)]

/-- Settles O34: each instruction is one of two operand shapes, which complete on a bus that answers, with its own
result. -/
theorem singleOperandResults : Obligations.SingleOperandResults := by
  intro dst s serves
  have modifies (sz : Size) (f : Word → Word → Word × Word) := modifies_readModifyWrite (sz := sz) serves dst f
  have overwrites (sz : Size) (f : Word → Word × Word) := overwrites_writeOnly (sz := sz) serves dst f
  exact ⟨⟨modifies .word (comResult .word), modifies .byte (comResult .byte),
      modifies .word (incResult .word), modifies .byte (incResult .byte),
      modifies .word (decResult .word), modifies .byte (decResult .byte),
      modifies .word (negResult .word), modifies .byte (negResult .byte),
      modifies .word (adcResult .word), modifies .byte (adcResult .byte),
      modifies .word (sbcResult .word), modifies .byte (sbcResult .byte)⟩,
    ⟨modifies .word (rorResult .word), modifies .byte (rorResult .byte),
      modifies .word (rolResult .word), modifies .byte (rolResult .byte),
      modifies .word (asrResult .word), modifies .byte (asrResult .byte),
      modifies .word (aslResult .word), modifies .byte (aslResult .byte),
      modifies .word swabResult⟩,
    overwrites .word clrResult, overwrites .byte clrResult, overwrites .word sxtResult⟩

end

section
/-! PROOFS. Control transfers (spec/45_control_transfer.md R370 to R404): where each leaves the machine on a bus that
answers, and what it leaves unchanged. -/

namespace Sys2Proof.Machine

/-! ### What a control transfer does -/

theorem branchIf_completes (cond : Word → Bool) (off : BitVec 8) (s : State) :
    perform .ordinary (branchIf cond off) s = branched (cond s.psw) off s :=
  perform_ok (update_run _ s)

theorem sob_completes (r : Reg) (nn : BitVec 6) (s : State) :
    let t := s.setReg r (s.reg r - 1)
    exec (.sob r nn) s = .next (State.complete
      (if t.reg r = 0 then t else t.setReg .pc (t.reg .pc - 2 * nn.zeroExtend 16)) .ordinary) :=
  perform_ok rfl

/-- The resolver gives an address for every mode but register (R180). -/
theorem resolve_address {sz : Size} {dst : Operand} {l : Loc} {s t : State} (mode : dst.mode ≠ .register)
    (resolved : resolve sz dst s = .ok l t) : ∃ a, l = .mem a := by
  cases l with
  | reg r => exact absurd (congrArg Operand.mode (resolve_reg resolved).1) mode
  | mem a => exact ⟨a, rfl⟩

theorem jmp_completes {dst : Operand} {s t : State} {a : Word} (resolved : resolve .word dst s = .ok (.mem a) t) :
    exec (.jmp dst) s = .next ((t.setReg .pc a).complete .ordinary) :=
  (perform_bind_ok resolved).trans (perform_ok (setReg_run .pc a t))

theorem jsr_completes {r : Reg} {dst : Operand} {s t u : State} {a : Word}
    (resolved : resolve .word dst s = .ok (.mem a) t) (pushed : push (t.reg r) t = .ok () u) :
    exec (.jsr r dst) s = .next (((u.setReg r (u.reg .pc)).setReg .pc a).complete .ordinary) := by
  refine (perform_bind_ok resolved).trans (perform_ok ?_)
  simp only [bind_getReg, act_bind_ok pushed, bind_setReg, setReg_run]

theorem rts_completes (r : Reg) {s : State} (serves : s.BusServes) :
    ∃ v t, memRead .word (s.reg .sp) (s.setReg .pc (s.reg r)) = .ok v t ∧
      exec (.rts r) s = .next (((t.setReg .sp (t.reg .sp + 2)).setReg r v).complete .ordinary) := by
  obtain ⟨v, t, read, -⟩ := serves_memRead .word (s.reg .sp) _ (serves.setReg .pc (s.reg r))
  have popped : pop (s.setReg .pc (s.reg r)) = .ok v (t.setReg .sp (t.reg .sp + 2)) := by
    rw [pop_run, setReg_reg_pc_sp, read]
  refine ⟨v, t, read, perform_ok ?_⟩
  rw [bind_getReg, bind_setReg, act_bind_ok popped, setReg_run]

/-- MARK is RTS through R5, with SP first moved past the words it discards (R385). -/
theorem mark_eq_rts (nn : BitVec 6) (s : State) :
    exec (.mark nn) s = exec (.rts .r5) (s.setReg .sp (s.reg .pc + 2 * nn.zeroExtend 16)) := rfl

/-! ### What a control transfer leaves unchanged -/

section
variable {α : Type} {written : Reg → Prop} {status stored : Nat → Prop} {s t u : State}

theorem RuleFrame.trans (h : RuleFrame written status stored s t) (k : RuleFrame written status stored t u) :
    RuleFrame written status stored s u where
  rest := h.rest.trans k.rest
  trace := k.trace.trans h.trace
  pending := k.pending.trans h.pending
  count := k.count.trans h.count
  regs r other := (k.regs r other).trans (h.regs r other)
  psw i other := (k.psw i other).trans (h.psw i other)
  memory p other := (k.memory p other).trans (h.memory p other)

/-- Before a rule, a part that only reads. -/
theorem RuleKeeps.after_reads {x : Act α} {rule : α → Act Unit} {a : α} (part : x s = .ok a t)
    (reads : Quiet written s t) (rest : RuleKeeps written status stored (rule a) t) :
    RuleKeeps written status stored (x >>= rule) s where
  stop e u h := by
    rw [act_bind_ok part] at h
    exact (quiet_composes written).stop reads (rest.stop e u h)
  ends u h := by
    rw [act_bind_ok part] at h
    exact (quiet_frame reads).trans (rest.ends u h)

/-- After a rule, register writes. -/
theorem RuleKeeps.then_registers {rule : Act Unit} {f : State → State}
    (k : RuleKeeps written status stored rule s) (registers : ∀ t, Quiet written t (f t)) :
    RuleKeeps written status stored (rule >>= fun _ => update f) s where
  stop e u h := by
    rcases part : rule s with ⟨⟨⟩, t⟩ | ⟨e', t⟩
    · rw [act_bind_ok part, update_run] at h; cases h
    · rw [act_bind_error part] at h; cases h; exact k.stop _ _ part
  ends u h := by
    obtain ⟨_, t, part, rest⟩ := act_bind_inv h
    cases rest
    exact (k.ends t part).trans (quiet_frame (registers t))

theorem push_keeps (sp : written .sp) (v : Word)
    (slot : ∀ p ∈ s.storeBytes .word (alignWord (s.reg .sp - 2)), stored p) :
    RuleKeeps written status stored (push v) s := by
  have moved : Quiet written s (s.setReg .sp (s.reg .sp - 2)) := quiet_setReg sp s _
  rcases memWrite_outcome .word (s.reg .sp - 2) v (s.setReg .sp (s.reg .sp - 2)) with
    ⟨t, run, stopped⟩ | ⟨t, run, store⟩
  · exact .of_error ((push_run v s).trans run) ⟨rfl, moved.stopped stopped⟩
  · refine .of_ok ((push_run v s).trans run) ((quiet_frame moved).trans ?_)
    exact ⟨store.rest, store.trace, store.pending, store.count, fun r _ => store.regs r nofun,
      fun i _ => by rw [store.psw],
      fun p other => store.mem p fun a same inSlot => by cases same; exact other (slot p inSlot)⟩

/-- JMP and JSR of a destination that is not a register, from what follows the resolver. -/
theorem transfer_keeps {dst : Operand} {go : Word → Act Unit} (mode : dst.mode ≠ .register) (pc : written .pc)
    (steps : ∀ r, stepsReg dst r → written r)
    (rest : ∀ a t, resolve .word dst s = .ok (.mem a) t → Quiet written s t →
      RuleKeeps written status stored (go a) t) :
    RuleKeeps written status stored (resolve .word dst >>= fun l => match l with
      | .reg _ => reservedTrap
      | .mem a => go a) s := by
  have reads := quiet_resolve pc .word dst steps
  rcases resolved : resolve .word dst s with ⟨l, t⟩ | ⟨e, t⟩
  · obtain ⟨a, rfl⟩ := resolve_address mode resolved
    exact .after_reads resolved (reads.ok resolved) (rest a t resolved (reads.ok resolved))
  · exact .of_error (act_bind_error resolved) (reads.error resolved)

/-- Reads and register writes do not move the mapping. -/
theorem Quiet.storeBytes (h : Quiet written s t) (sz : Size) (a : Word) : t.storeBytes sz a = s.storeBytes sz a := by
  have phys (x : Word) : t.phys x = s.phys x := by
    rw [State.phys, State.phys, State.windows, State.windows, h.rest.bank, h.rest.params]
  cases sz <;> simp only [State.storeBytes, phys]

/-- The word JSR pushes is the link slot, taken where the resolver ended. -/
theorem storedAt_linkSlot {dst : Operand} {a : Word} (resolved : resolve .word dst s = .ok (.mem a) t)
    (reads : Quiet written s t) {p : Nat} (h : p ∈ t.storeBytes .word (alignWord (t.reg .sp - 2))) :
    storedAt .word (linkSlot dst s) s p :=
  ⟨alignWord (t.reg .sp - 2), by rw [linkSlot, resolved], reads.storeBytes .word _ ▸ h⟩

/-- The rule of RTS, and the end of MARK's: PC from the link register, and that register from the stack. -/
theorem quiet_return {r : Reg} (pc : written .pc) (sp : written .sp) (link : written r) :
    Relates (Quiet written) QuietStop (do
      let target ← getReg r
      setReg .pc target
      let v ← pop
      setReg r v) :=
  have c := quiet_composes written
  relates_bind c (relates_getReg c r) fun _ => relates_bind c (relates_setReg (quiet_setReg pc) _) fun _ =>
    relates_bind c (quiet_pop sp) fun _ => relates_setReg (quiet_setReg link) _

end

end Sys2Proof.Machine
end

section
open Sys2Proof Sys2Proof.Machine

/-- Settles O36: JMP and JSR go on from the address the resolver gives, RTS and MARK from the word they pop. -/
theorem transferResults : Obligations.TransferResults := by
  refine ⟨sob_completes, ?_, fun r s => rts_completes r, ?_⟩
  · intro dst s serves mode
    obtain ⟨l, t, resolved, answers⟩ := serves_resolve .word dst s serves
    obtain ⟨a, rfl⟩ := resolve_address mode resolved
    refine ⟨a, t, resolved, jmp_completes resolved, fun r => ?_⟩
    obtain ⟨⟨⟩, u, written, -⟩ := serves_memWrite .word (t.reg .sp - 2) (t.reg r) _
      (answers.setReg .sp (t.reg .sp - 2))
    exact ⟨u, written, jsr_completes resolved ((push_run _ t).trans written)⟩
  · intro nn s serves sp
    rw [mark_eq_rts]
    exact rts_completes .r5 (serves.setReg .sp sp)

/-- Settles O49: JSR stores in the push alone, at the link slot; JMP, RTS and MARK read and write registers alone; SOB
makes no bus access, so it always completes. -/
theorem transferFrame : Obligations.TransferFrame := by
  intro dst r s t started
  refine ⟨fun mode h => ?jmp, fun mode h => ?jsr, fun h => ?rts, ?mark, ?sob⟩
  case jmp =>
    refine RuleKeeps.frame (transfer_keeps mode (.inl rfl) (fun _ => .inr) fun a t _ _ => ?_) (.inl rfl) started h
    exact relates_keeps (relates_setReg (quiet_setReg (.inl rfl)) a) t
  case jsr =>
    refine RuleKeeps.frame (transfer_keeps mode (.inl rfl) (fun _ steps => .inr (.inr (.inr steps)))
      fun a t resolved reads => ?_) (.inl rfl) started h
    refine .after_reads (getReg_run r t) (.refl _ t) ((push_keeps (.inr (.inl rfl)) _ fun p =>
      storedAt_linkSlot resolved reads).then_registers
        (f := fun u => (u.setReg r (u.reg .pc)).setReg .pc a) fun u => ?_)
    exact (quiet_setReg (.inr (.inr (.inl rfl))) u _).trans (quiet_setReg (.inl rfl) _ a)
  case rts =>
    exact (relates_keeps (quiet_return (.inl rfl) (.inr (.inl rfl)) (.inr (.inr rfl))) s).frame (.inl rfl) started h
  case mark =>
    rintro ⟨nn, h⟩
    refine (relates_keeps (relates_bind (quiet_composes _) (relates_update fun s => ?_) fun _ =>
      quiet_return (.inl rfl) (.inr (.inl rfl)) (.inr (.inr rfl))) s).frame (.inl rfl) started h
    exact quiet_setReg (.inr (.inl rfl)) s _
  case sob =>
    rintro ⟨nn, h⟩
    cases (sob_completes r nn s).symm.trans h
    have decremented := quiet_setReg (touched := fun q => q = .pc ∨ q = r) (.inr rfl) s (s.reg r - 1)
    refine frame_of_complete (quiet_frame ?_)
    split
    · exact decremented
    · exact decremented.trans (quiet_setReg (.inl rfl) _ _)

/-- Settles O35: every branch is `branchIf` with its own test of R229. -/
theorem branchResults : Obligations.BranchResults := by
  intro off s n z v c
  have branch (cond : Word → Bool) := branchIf_completes cond off s
  have hi : condHi s.psw = (!c && !z) := Bool.not_or c z
  exact ⟨branch condAlways, branch condNe, branch condEq, branch condGe, branch condLt, branch condGt, branch condLe,
    branch condPl, branch condMi, hi ▸ branch condHi, branch condLos, branch condVc, branch condVs, branch condCc,
    branch condCs⟩

end

section
/-! PROOFS. The system instructions on a bus that answers (spec/46_system_instructions.md): WAIT and RESET, the
condition-code operators, and the instructions that take a trap, the halt path or a trap return. -/

namespace Sys2Proof.Machine

/-! ### The condition-code operators (R440) -/

theorem getLsbD_clearFlags (mask : BitVec 4) (p : Word) (i : Nat) :
    (clearFlags mask p).getLsbD i = if mask.getLsbD i then false else p.getLsbD i := by
  by_cases low : i < 4
  · rw [clearFlags, BitVec.getLsbD_and, BitVec.getLsbD_not, BitVec.getLsbD_setWidth]
    cases mask.getLsbD i <;> simp [show i < 16 by omega]
  · rw [clearFlags_upper mask p i (by omega), BitVec.getLsbD_of_ge mask i (by omega), if_neg nofun]

theorem getLsbD_setFlags (mask : BitVec 4) (p : Word) (i : Nat) :
    (setFlags mask p).getLsbD i = if mask.getLsbD i then true else p.getLsbD i := by
  by_cases low : i < 4
  · rw [setFlags, BitVec.getLsbD_or, BitVec.getLsbD_setWidth]
    cases mask.getLsbD i <;> simp [show i < 16 by omega]
  · rw [setFlags_upper mask p i (by omega), BitVec.getLsbD_of_ge mask i (by omega), if_neg nofun]

/-- The PSW an operator makes of the one before, by its S bit and its mask, before the mask of R41. -/
def operatorPsw (set : Bool) (mask : BitVec 4) (p : Word) : Word := if set then setFlags mask p else clearFlags mask p

theorem getLsbD_operatorPsw (set : Bool) (mask : BitVec 4) (p : Word) (i : Nat) :
    (operatorPsw set mask p).getLsbD i = if mask.getLsbD i then set else p.getLsbD i := by
  cases set
  · exact getLsbD_clearFlags mask p i
  · exact getLsbD_setFlags mask p i

/-- Each operator of the list writes the PSW of its S bit and its mask. -/
theorem operator_completes (s : State) : ∀ f ∈ ccForms,
    exec f.1 s = .next ((s.writePsw (operatorPsw f.2.1 f.2.2 s.psw)).complete .ordinary) := by
  simp only [ccForms, List.forall_mem_cons, List.not_mem_nil, false_imp_iff, implies_true, and_true]
  and_intros <;> rfl

/-- The condition codes are implemented in either variant (R36, R41). -/
theorem getLsbD_and_pswImpl_of_lt_four (v : Variant) (q : Word) {i : Nat} (low : i < 4) :
    (q &&& pswImpl v).getLsbD i = q.getLsbD i := by
  have implemented : i < pswTop v := by cases v <;> simp only [pswTop] <;> omega
  rw [BitVec.getLsbD_and, getLsbD_pswImpl, decide_eq_true implemented, Bool.and_true]

/-! ### Traps and the halt path -/

/-- On a bus that answers, an instruction that takes a trap completes with the state the trap ends in. -/
theorem trap_completes {s : State} (serves : s.BusServes) {vec : Word} (aligned : vec &&& 3 = 0) :
    ∃ t, TrapEnters vec s t ∧ perform .ordinary (trap vec) s = .next (t.complete .ordinary) := by
  obtain ⟨t, enters, run⟩ := trap_enters serves aligned
  exact ⟨t, enters, perform_ok run⟩

theorem exec_halt_base {s : State} (base : s.extended = false) :
    exec .halt s = perform .ordinary (trap Config.vecHaltInsn) s := by
  rw [exec, execHalt, base, if_neg nofun]

theorem exec_halt_extended {s : State} (ext : s.extended = true) : exec .halt s = perform .ordinary haltPath s := by
  rw [exec, execHalt, if_pos ext]

theorem flagH_installHalt (s : State) (newPc newPsw : Word) : flagH (s.installHalt newPc newPsw).psw = true :=
  getLsbD_withH true _ Config.privBit

/-- The halt path ends in the privileged mode (spec/60_exceptions.md R530). -/
theorem HaltEnters.flagH {s t : State} (enters : HaltEnters s t) : flagH t.psw = true := by
  obtain ⟨newPc, _, newPsw, _, _, s4, -, -, -, -, rfl⟩ := enters
  exact flagH_installHalt s4 newPc newPsw

end Sys2Proof.Machine
end

section
open Sys2Proof Sys2Proof.Machine

/-- Settles O37: WAIT and RESET are one update each, and an operator writes the PSW of its S bit and mask, of which R41
drops bits above the condition codes alone. -/
theorem systemResults : Obligations.SystemResults := by
  intro s
  refine ⟨rfl, rfl, fun f form => ⟨operatorPsw f.2.1 f.2.2 s.psw &&& pswImpl s.params.variant,
    operator_completes s f form, fun i low => ?_, fun fits i high => ?_⟩⟩
  · rw [getLsbD_and_pswImpl_of_lt_four _ _ low, getLsbD_operatorPsw]
  · refine getLsbD_and_pswImpl fits ?_
    rw [getLsbD_operatorPsw, BitVec.getLsbD_of_ge f.2.2 i high, if_neg nofun]

/-- Settles O38: each instruction performs its own sequence, which runs to its end on a bus that answers. -/
theorem trapInstructionsEnter : Obligations.TrapInstructionsEnter := by
  intro s serves
  obtain ⟨bptEnd, bptEnters, bpt⟩ := trap_completes serves (vec := Config.vecTrace) (by decide)
  obtain ⟨iotEnd, iotEnters, iot⟩ := trap_completes serves (vec := Config.vecIot) (by decide)
  obtain ⟨emtEnd, emtEnters, emt⟩ := trap_completes serves (vec := Config.vecEmt) (by decide)
  obtain ⟨trapEnd, trapEnters, trap⟩ := trap_completes serves (vec := Config.vecTrap) (by decide)
  refine ⟨⟨bptEnd, bptEnters, bpt⟩, ⟨iotEnd, iotEnters, iot⟩, ⟨emtEnd, emtEnters, fun _ => emt⟩,
    ⟨trapEnd, trapEnters, fun _ => trap⟩, fun base => ?_, fun ext aligned => ?_⟩
  · rw [exec_halt_base base]
    exact trap_completes serves (vec := Config.vecHaltInsn) (by decide)
  · obtain ⟨t, enters, run⟩ := haltPath_enters serves aligned
    exact ⟨t, enters, enters.flagH, (exec_halt_extended ext).trans (perform_ok run)⟩

/-- Settles O39: every RESERVED row is the reserved-instruction trap, and JMP and JSR are nothing else once their
destination has resolved to a register. -/
theorem reservedInstructionsTrap : Obligations.ReservedInstructionsTrap := by
  intro s serves
  obtain ⟨t, enters, row⟩ := trap_completes serves (vec := Config.vecReserved) (by decide)
  exact ⟨t, enters, row,
    fun _ => ⟨row, row, row, row, row, row, row, row, row, row, row, row, row, row, row⟩,
    fun _ => ⟨row, fun _ => row⟩⟩

/-- Settles O40: RTI and RTT are the return from an exception, each with its own completion. -/
theorem trapReturnResults : Obligations.TrapReturnResults := by
  intro s serves
  exact ⟨trapReturn_returns serves .rti, trapReturn_returns serves .rtt⟩

end

section
/-! PROOFS. What the instructions that take a trap or the halt path, or return from one, leave unchanged
(spec/46_system_instructions.md R420 to R428, R450; spec/60_exceptions.md R475, R476, R530). -/

namespace Sys2Proof.Machine

variable {α β : Type}

/-! ### What no exception touches -/

theorem ExceptionKept.refl (s : State) : ExceptionKept s s := by constructor <;> simp

theorem ExceptionKept.trans {s t u : State} (h : ExceptionKept s t) (k : ExceptionKept t u) : ExceptionKept s u where
  params := k.params.trans h.params
  ppc := k.ppc.trans h.ppc
  ppsw := k.ppsw.trans h.ppsw
  doubleFault := k.doubleFault.trans h.doubleFault
  eventLatch := k.eventLatch.trans h.eventLatch
  powerFailReq := k.powerFailReq.trans h.powerFailReq
  haltLine := k.haltLine.trans h.haltLine
  virq := k.virq.trans h.virq
  irqState := k.irqState.trans h.irqState
  chain := k.chain.trans h.chain
  irqAnswers := k.irqAnswers.trans h.irqAnswers
  inputs := k.inputs.trans h.inputs
  start := k.start.trans h.start
  regs r sp pc := (k.regs r sp pc).trans (h.regs r sp pc)

theorem RestKept.exceptionKept {s t : State} (h : RestKept s t)
    (regs : ∀ r, r ≠ .sp → r ≠ .pc → t.reg r = s.reg r) : ExceptionKept s t :=
  ⟨h.params, h.ppc, h.ppsw, h.doubleFault, h.eventLatch, h.powerFailReq, h.haltLine, h.virq, h.irqState, h.chain,
    h.irqAnswers, h.inputs, h.start, regs⟩

theorem exceptionKept_complete (s : State) (how : Completion) : ExceptionKept s (s.complete how) := by
  constructor <;> simp [State.reg]

/-- The abort after a bus failure takes the registers back from S0, which holds all of them but PC. -/
theorem ExceptionKept.abort {s m u : State} (h : ExceptionKept s m) (started : s.Started) (stopped : Stopped m u) :
    ExceptionKept s u.abort where
  params := (abort_params u).trans (stopped.rest.params.trans h.params)
  ppc := (abort_ppc u).trans (stopped.rest.ppc.trans h.ppc)
  ppsw := (abort_ppsw u).trans (stopped.rest.ppsw.trans h.ppsw)
  doubleFault := (abort_doubleFault u).trans (stopped.rest.doubleFault.trans h.doubleFault)
  eventLatch := (abort_eventLatch u).trans (stopped.rest.eventLatch.trans h.eventLatch)
  powerFailReq := (abort_powerFailReq u).trans (stopped.rest.powerFailReq.trans h.powerFailReq)
  haltLine := (abort_haltLine u).trans (stopped.rest.haltLine.trans h.haltLine)
  virq := (abort_virq u).trans (stopped.rest.virq.trans h.virq)
  irqState := (abort_irqState u).trans (stopped.rest.irqState.trans h.irqState)
  chain := (abort_chain u).trans (stopped.rest.chain.trans h.chain)
  irqAnswers := (abort_irqAnswers u).trans (stopped.rest.irqAnswers.trans h.irqAnswers)
  inputs := (abort_inputs u).trans (stopped.rest.inputs.trans h.inputs)
  start := (abort_start u).trans (stopped.rest.start.trans h.start)
  regs r _ pc := by
    rw [State.reg, abort_regs, stopped.rest.start, h.start, Regs.get_set_ne _ _ pc, started.reg pc]

/-! ### What a sequence keeps -/

/-- What a sequence, or a part of it, keeps until it ends or is stopped: all that no exception touches, the latches,
and every byte of memory but those it stores. -/
structure SequenceKept (stored : Nat → Prop) (s t : State) : Prop where
  kept   : ExceptionKept s t
  trace  : t.tracePending = s.tracePending
  record : NoFailure s t
  memory : ∀ p, ¬ stored p → t.mem.read p = s.mem.read p

section
variable {stored : Nat → Prop} {s t u m : State}

theorem SequenceKept.refl (s : State) : SequenceKept stored s s := ⟨.refl s, rfl, .of_eq, fun _ _ => rfl⟩

theorem SequenceKept.trans (h : SequenceKept stored s t) (k : SequenceKept stored t u) : SequenceKept stored s u where
  kept := h.kept.trans k.kept
  trace := k.trace.trans h.trace
  record := h.record.trans k.record
  memory p other := (k.memory p other).trans (h.memory p other)

theorem RuleFrame.sequenceKept {status : Nat → Prop} (h : RuleFrame (· = .sp) status stored s t) :
    SequenceKept stored s t :=
  ⟨h.rest.exceptionKept fun r sp _ => h.regs r sp, h.trace, ⟨h.pending, h.count⟩, h.memory⟩

theorem SequenceKept.of_quiet (h : Quiet (· = .sp) s t) : SequenceKept stored s t :=
  (quiet_frame (st := fun _ => False) h).sequenceKept

theorem sequenceKept_leavePrivileged : SequenceKept stored s s.leavePrivileged :=
  ⟨by constructor <;> simp [State.reg], by simp, .of_eq, fun _ _ => by simp⟩

theorem sequenceKept_enterHalt : SequenceKept stored s s.enterHalt :=
  ⟨by constructor <;> intros <;> rfl, rfl, ⟨rfl, rfl⟩, fun _ _ => rfl⟩

theorem sequenceKept_install (newPc newPsw : Word) : SequenceKept stored s (s.install newPc newPsw) :=
  ⟨by constructor <;> simp +contextual [State.reg], by simp, .of_eq, fun _ _ => by simp⟩

theorem sequenceKept_installHalt (newPc newPsw : Word) : SequenceKept stored s (s.installHalt newPc newPsw) where
  kept := by
    constructor
    case regs => exact fun r _ pc => reg_setReg_ne s newPc pc
    all_goals rfl
  trace := rfl
  record := ⟨rfl, rfl⟩
  memory _ _ := rfl

/-- The part of a sequence that runs from `s` keeps this much where it ends, and up to the access that failed where a
bus failure stops it. -/
structure SequenceKeeps (stored : Nat → Prop) (part : Act α) (s : State) : Prop where
  ends : ∀ {a t}, part s = .ok a t → SequenceKept stored s t
  stop : ∀ {u}, part s = .error .busFailure u → ∃ m, SequenceKept stored s m ∧ Stopped m u

theorem SequenceKeeps.of_ok {part : Act α} {a : α} (run : part s = .ok a t) (kept : SequenceKept stored s t) :
    SequenceKeeps stored part s :=
  ⟨fun h => by rw [run] at h; cases h; exact kept, fun h => by rw [run] at h; cases h⟩

theorem SequenceKeeps.update {f : State → State} (kept : SequenceKept stored s (f s)) :
    SequenceKeeps stored (update f) s := .of_ok (update_run f s) kept

theorem SequenceKeeps.bind {x : Act α} {f : α → Act β} (part : SequenceKeeps stored x s)
    (rest : ∀ a t, x s = .ok a t → SequenceKeeps stored (f a) t) : SequenceKeeps stored (x >>= f) s where
  ends h := by
    obtain ⟨a, t, run, ended⟩ := act_bind_inv h
    exact (part.ends run).trans ((rest a t run).ends ended)
  stop h := by
    rcases run : x s with ⟨a, t⟩ | ⟨e, t⟩
    · rw [act_bind_ok run] at h
      obtain ⟨m, kept, stopped⟩ := (rest a t run).stop h
      exact ⟨m, (part.ends run).trans kept, stopped⟩
    · rw [act_bind_error run] at h
      cases h
      exact part.stop run

/-- The look gives its value where it is taken. -/
theorem SequenceKeeps.after_look {f : State → α} {g : α → Act β} (rest : SequenceKeeps stored (g (f s)) s) :
    SequenceKeeps stored (look f >>= g) s := ⟨rest.ends, rest.stop⟩

theorem SequenceKeeps.after_update {f : State → State} {g : Unit → Act β} (kept : SequenceKept stored s (f s))
    (rest : SequenceKeeps stored (g ()) (f s)) : SequenceKeeps stored (Machine.update f >>= g) s :=
  .bind (.update kept) fun _ _ run => by cases run; exact rest

/-- A vector that is not a multiple of 4 is no bus failure. -/
theorem SequenceKeeps.after_checkVector {vec : Word} {f : Unit → Act β} (rest : SequenceKeeps stored (f ()) s) :
    SequenceKeeps stored (checkVector vec >>= f) s where
  ends h := by
    rw [bind_checkVector] at h
    split at h
    · exact rest.ends h
    · cases h
  stop h := by
    rw [bind_checkVector] at h
    split at h
    · exact rest.stop h
    · cases h

/-! ### The two pushes -/

/-- The bytes of the two words below SP, in the mapping of the state. -/
def pushSlots (s : State) (p : Nat) : Prop :=
  p ∈ s.storeBytes .word (alignWord (s.reg .sp - 2)) ∨ p ∈ s.storeBytes .word (alignWord (s.reg .sp - 4))

/-- A push moves SP by a word, and nothing moves the mapping. -/
theorem push_moves {v : Word} (run : push v s = .ok () t) : t.reg .sp = s.reg .sp - 2 ∧ RestKept s t := by
  rw [push_run] at run
  rcases memWrite_outcome .word (s.reg .sp - 2) v (s.setReg .sp (s.reg .sp - 2)) with ⟨_, k, -⟩ | ⟨u, k, store⟩ <;>
    rw [k] at run <;> cases run
  exact ⟨(store.regs .sp nofun).trans (setReg_reg_same s .sp _),
    (quiet_setReg (touched := (· = .sp)) rfl s _).rest.trans store.rest⟩

theorem RestKept.storeBytes (h : RestKept s t) (sz : Size) (a : Word) : t.storeBytes sz a = s.storeBytes sz a := by
  have phys (x : Word) : t.phys x = s.phys x := by
    rw [State.phys, State.phys, State.windows, State.windows, h.bank, h.params]
  cases sz <;> simp only [State.storeBytes, phys]

theorem SequenceKeeps.push (v : Word) (slot : ∀ p ∈ s.storeBytes .word (alignWord (s.reg .sp - 2)), stored p) :
    SequenceKeeps stored (push v) s :=
  have k := push_keeps (written := (· = .sp)) (status := fun _ => False) rfl v slot
  ⟨fun run => (k.ends _ run).sequenceKept, fun run => ⟨s, .refl s, (k.stop _ _ run).2⟩⟩

theorem pushBoth_keeps (oldPsw : State → Word) (pair : Word × Word) (s : State) :
    SequenceKeeps (pushSlots s) (pushBoth oldPsw pair) s := by
  refine .after_look <| .bind (.push (oldPsw s) fun _ h => .inl h) fun _ t pushed => ?_
  obtain ⟨sp, rest⟩ := push_moves pushed
  have second : ∀ p ∈ t.storeBytes .word (alignWord (t.reg .sp - 2)), pushSlots s p := fun p h => by
    rw [rest.storeBytes, sp, BitVec.sub_sub] at h
    exact .inr h
  exact .after_look <| .bind (.push (t.reg .pc) second) fun _ u _ => .of_ok (act_pure pair u) (.refl u)

theorem Quiet.pushSlots (h : Quiet (fun _ => False) s t) : pushSlots t = pushSlots s := by
  funext p
  rw [Machine.pushSlots, Machine.pushSlots, h.regs .sp id, h.storeBytes, h.storeBytes]

/-- A read moves neither SP nor the mapping, so the slots may be taken where it ends. -/
theorem SequenceKeeps.after_read {a : Word} {f : Word → Act α}
    (rest : ∀ v t, SequenceKeeps (pushSlots t) (f v) t) : SequenceKeeps (pushSlots s) (memRead .word a >>= f) s := by
  have read := relates_memRead (quiet_composes fun _ => False) (quiet_reads _) .word a
  have kept : SequenceKeeps (pushSlots s) (memRead .word a) s :=
    ⟨fun run => .of_quiet ((read.ok run).mono nofun), fun run => ⟨s, .refl s, (read.error run).2⟩⟩
  refine kept.bind fun v t run => ?_
  rw [← (read.ok run).pushSlots]
  exact rest v t

theorem trapBody_keeps (vec : Word) (s : State) : SequenceKeeps (pushSlots s) (trapBody vec id) s :=
  .after_read fun newPc _ => .after_read fun newPsw t => .after_update (.refl t) <|
    pushBoth_keeps State.psw (newPc, newPsw) t

theorem haltBody_keeps (vec oldPsw : Word) (s : State) : SequenceKeeps (pushSlots s) (haltBody vec oldPsw) s :=
  .after_read fun newPc _ => .after_read fun newPsw t => pushBoth_keeps (fun _ => oldPsw) (newPc, newPsw) t

/-! ### A trap, the halt path and a return -/

theorem trap_eq (vec : Word) : trap vec = checkVector vec >>= fun _ => update State.leavePrivileged >>= fun _ =>
    trapBody vec id >>= fun p => update fun s => s.install p.1 p.2 := by
  simp only [trap, trapSequence, trapBody, pushBoth, bind_assoc, pure_bind]

theorem look_const (a : α) : look (fun _ => a) = pure a := rfl

theorem haltPath_eq : haltPath = look (fun s => s.params.haltVector) >>= fun vec => checkVector vec >>= fun _ =>
    look State.psw >>= fun oldPsw => update State.enterHalt >>= fun _ =>
    haltBody vec oldPsw >>= fun p => update fun s => s.installHalt p.1 p.2 := by
  simp only [haltPath, haltBody, pushBoth, look_const, bind_assoc, pure_bind]

theorem trap_keeps (vec : Word) (s : State) : SequenceKeeps (pushSlots s.leavePrivileged) (trap vec) s := by
  rw [trap_eq]
  exact .after_checkVector <| .after_update sequenceKept_leavePrivileged <|
    .bind (trapBody_keeps vec s.leavePrivileged) fun p t _ => .update (sequenceKept_install p.1 p.2)

theorem haltPath_keeps (s : State) : SequenceKeeps (pushSlots s.enterHalt) haltPath s := by
  rw [haltPath_eq]
  exact .after_look <| .after_checkVector <| .after_look <| .after_update sequenceKept_enterHalt <|
    .bind (haltBody_keeps s.params.haltVector s.psw s.enterHalt) fun p t _ =>
      .update (sequenceKept_installHalt p.1 p.2)

/-- The frame of an instruction that is one sequence: the sequence ended, or a bus failure stopped it and the
instruction aborts. -/
theorem SequenceKeeps.trapFrame {slots : State} {sequence : Act Unit}
    (keeps : SequenceKeeps (pushSlots slots) sequence s) (sp : slots.reg .sp = s.reg .sp) (started : s.Started)
    (h : perform .ordinary sequence s = .next t) : TrapFrame slots s t := by
  have outside (p : Nat) (first : p ∉ slots.storeBytes .word (alignWord (s.reg .sp - 2)))
      (second : p ∉ slots.storeBytes .word (alignWord (s.reg .sp - 4))) : ¬ pushSlots slots p := by
    rw [pushSlots, sp]
    exact not_or.mpr ⟨first, second⟩
  rcases perform_next h with ⟨u, ended, rfl⟩ | ⟨u, failed, rfl⟩
  · have k := keeps.ends ended
    refine ⟨k.kept.trans (exceptionKept_complete u _), ⟨.inl ⟨k.record.pending, k.record.count⟩, ?_⟩,
      fun p first second => k.memory p (outside p first second)⟩
    rw [complete_ordinary_tracePending, k.trace, k.kept.start]
    cases flagT s.start.psw <;> simp
  · obtain ⟨m, k, stopped⟩ := keeps.stop failed
    refine ⟨k.kept.abort started stopped, ⟨.inr ⟨?_, ?_⟩, .inl ?_⟩, fun p first second => ?_⟩
    · rw [abort_busFaultPending, stopped.pending]
    · rw [abort_busFaultCount, stopped.count, k.record.count]
    · rw [abort_tracePending, stopped.trace, k.trace]
    · rw [abort_mem, stopped.mem, k.memory p (outside p first second)]

theorem trap_frame {vec : Word} (started : s.Started) (h : perform .ordinary (trap vec) s = .next t) :
    TrapFrame s.leavePrivileged s t :=
  (trap_keeps vec s).trapFrame (congrArg Regs.sp (leavePrivileged_regs s)) started h

theorem haltPath_frame (started : s.Started) (h : perform .ordinary haltPath s = .next t) :
    TrapFrame { s with bank := .priv } s t :=
  have keeps : SequenceKeeps (pushSlots { s with bank := .priv }) haltPath s := haltPath_keeps s
  keeps.trapFrame rfl started h

theorem exec_reserved {i : Instr} (row : i.row.mnemonic = "RESERVED") :
    exec i s = perform .ordinary reservedTrap s := by
  refine exec_of_sequenceOf ?_
  unfold sequenceOf
  split
  case h_8 => exact if_pos row
  all_goals exact absurd row (of_decide_eq_false rfl)

/-! ### A return -/

/-- Before the end of a return, any part that reads and moves SP. -/
theorem ReturnFrame.after_quiet (h : Quiet (· = .sp) s t) (k : ReturnFrame t u) : ReturnFrame s u where
  kept := (h.rest.exceptionKept fun r sp _ => h.regs r sp).trans k.kept
  waitState := k.waitState.trans h.rest.waitState
  memory := k.memory.trans h.mem

theorem trapReturn_frame : Relates ReturnFrame QuietStop trapReturn := by
  have popped {f : Word → Act Unit} (rest : ∀ v, Relates ReturnFrame QuietStop (f v)) :
      Relates ReturnFrame QuietStop (pop >>= f) :=
    relates_bind_end (E := ReturnFrame) (Q := QuietStop) .after_quiet (quiet_composes _).stop
      (quiet_pop (W := (· = .sp)) rfl) fun v _ => rest v
  refine popped fun newPc => popped fun newPsw => relates_update fun s => ⟨?_, by simp, by simp⟩
  constructor <;> simp +contextual [State.reg]

theorem return_frame {how : Completion} (started : s.Started) (h : perform how trapReturn s = .next t) :
    ReturnFrame s t := by
  rcases perform_next h with ⟨u, ended, rfl⟩ | ⟨u, failed, rfl⟩
  · obtain ⟨kept, waitState, memory⟩ := trapReturn_frame.ok ended
    exact ⟨kept.trans (exceptionKept_complete u how), waitState, memory⟩
  · obtain ⟨-, stopped⟩ := trapReturn_frame.error failed
    refine ⟨(ExceptionKept.refl s).abort started stopped, ?_, ?_⟩
    · rw [abort_waitState, stopped.rest.waitState]
    · rw [abort_mem, stopped.mem]

end

end Sys2Proof.Machine
end

section
open Sys2Proof Sys2Proof.Machine

/-- Settles O50: each instruction is one trap, the halt path or one return, which ends, or which a bus failure stops so
that the abort restores the registers. -/
theorem exceptionFrame : Obligations.ExceptionFrame := by
  intro s t started
  refine ⟨?_, fun ext h => ?_, ?_⟩
  · rintro (bpt | iot | ⟨_, emt⟩ | ⟨_, trap⟩ | ⟨base, halt⟩ | ⟨i, row, reserved⟩ | ⟨_, jmp⟩ | ⟨_, _, jsr⟩)
    · exact trap_frame (vec := Config.vecTrace) started bpt
    · exact trap_frame (vec := Config.vecIot) started iot
    · exact trap_frame (vec := Config.vecEmt) started emt
    · exact trap_frame (vec := Config.vecTrap) started trap
    · exact trap_frame started (exec_halt_base base ▸ halt)
    · exact trap_frame started (exec_reserved row ▸ reserved)
    · exact trap_frame (vec := Config.vecReserved) started jmp
    · exact trap_frame (vec := Config.vecReserved) started jsr
  · exact haltPath_frame started (exec_halt_extended ext ▸ h)
  · rintro (rti | rtt)
    · exact return_frame (how := .rti) started rti
    · exact return_frame (how := .rtt) started rtt

end

section
/-! PROOFS. The daisy chain (spec/60_exceptions.md R528), and the arbiter that takes no trap (R470, R526, R547). -/

namespace Sys2Proof.Machine

/-! ### The walk of the chain -/

/-- The positions of the pending peripherals, counted from `k`. -/
def pendingFrom (ps : List Peripheral) (k : Nat) : List Nat :=
  ((ps.zipIdx k).filter fun q => q.1.pending).map Prod.snd

theorem pendingFrom_cons (p : Peripheral) (ps : List Peripheral) (k : Nat) :
    pendingFrom (p :: ps) k = if p.pending then k :: pendingFrom ps (k + 1) else pendingFrom ps (k + 1) := by
  rw [pendingFrom, List.zipIdx_cons, List.filter_cons]
  split <;> rfl

theorem pendingFrom_increasing (ps : List Peripheral) (k : Nat) : (pendingFrom ps k).Pairwise (· < ·) := by
  have positions : (pendingFrom ps k).Sublist ((ps.zipIdx k).map Prod.snd) := List.filter_sublist.map Prod.snd
  rw [List.zipIdx_map_snd] at positions
  exact List.Pairwise.sublist positions List.pairwise_lt_range'

theorem mem_pendingFrom_zero {ps : List Peripheral} {j : Nat} :
    j ∈ pendingFrom ps 0 ↔ ∃ q, ps[j]? = some q ∧ q.pending = true := by
  simp [pendingFrom, List.mk_mem_zipIdx_iff_getElem?]

/-- Peripherals that are not pending or decline are walked past, and keep their place. -/
theorem walkChain_append {before : List Peripheral} (decline : ∀ q ∈ before, q.pending = false ∨ q.answer = none)
    (ps : List Peripheral) (k : Nat) : walkChain (before ++ ps) k =
      ((walkChain ps (k + before.length)).1, before ++ (walkChain ps (k + before.length)).2.1,
        pendingFrom before k ++ (walkChain ps (k + before.length)).2.2) := by
  induction before generalizing k with
  | nil => rfl
  | cons q before ih =>
    obtain ⟨first, others⟩ := List.forall_mem_cons.mp decline
    have place : k + 1 + before.length = k + (q :: before).length := by rw [List.length_cons]; omega
    have rest := ih others (k + 1)
    rw [place] at rest
    rw [List.cons_append, walkChain, rest, pendingFrom_cons]
    cases pending : q.pending
    · rfl
    · obtain declines : q.answer = none := first.resolve_left (by simp [pending])
      simp [declines]

theorem walkChain_answered {p : Peripheral} {v : Word} (pending : p.pending = true) (answer : p.answer = some v)
    (after : List Peripheral) (k : Nat) :
    walkChain (p :: after) k = (some v, { p with pending := v == 0 } :: after, [k]) := by
  rw [walkChain, if_pos pending, answer]

/-- Where every peripheral declines, the chain stays as it is. -/
theorem walkChain_declined {ps : List Peripheral} (decline : ∀ q ∈ ps, q.pending = false ∨ q.answer = none) (k : Nat) :
    (walkChain ps k).1 = none ∧ (walkChain ps k).2.1 = ps := by
  have walk := walkChain_append decline [] k
  rw [List.append_nil] at walk
  rw [walk]
  exact ⟨rfl, List.append_nil ps⟩

/-- A walk that gives no vector, or the 0 that is none (R526), leaves the chain as it is. -/
theorem walkChain_of_no_vector (ps : List Peripheral) (k : Nat) (noVector : ∀ v, (walkChain ps k).1 = some v → v = 0) :
    (walkChain ps k).2.1 = ps := by
  induction ps generalizing k with
  | nil => rfl
  | cons p ps ih =>
    by_cases declines : p.pending = false ∨ p.answer = none
    · have walk := walkChain_append (before := [p]) (by simpa using declines) ps k
      rw [List.singleton_append] at walk
      rw [walk] at noVector ⊢
      exact congrArg (p :: ·) (ih _ noVector)
    · obtain ⟨pending, answers⟩ := not_or.mp declines
      obtain ⟨v, answer⟩ := Option.ne_none_iff_exists'.mp answers
      have walk := walkChain_answered (Bool.eq_true_of_not_eq_false pending) answer ps k
      rw [walk] at noVector ⊢
      have zero : v = 0 := noVector v rfl
      have still : (v == 0) = p.pending := by rw [zero, Bool.eq_true_of_not_eq_false pending]; rfl
      rw [still]

theorem ackChain_calls (s : State) :
    s.ackChain.calls = ((walkChain s.chain 0).2.2.reverse.map EnvCall.chainAck) ++ s.calls := by
  rw [State.ackChain, List.map_reverse]

/-! ### The arbiter of each variant -/

theorem arbitrate_base {s : State} (variant : s.params.variant = .base) : arbitrate s = arbitrateBase s := by
  rw [arbitrate, variant]

theorem arbitrate_extended {s : State} (variant : s.params.variant = .extended) : arbitrate s = arbitrateExt s := by
  rw [arbitrate, variant]

/-! ### The arbiter that takes no trap -/

/-- The device rung takes no trap without VIRQ, or where the chain gives no vector; then VIRQ is cleared. -/
theorem arbitrateDevice_idle_cases {s t : State} (h : arbitrateDevice s = .idle t) :
    t = s ∨ (∀ v, s.chainVector = some v → v = 0) ∧ t = { s.ackChain with virq := false } := by
  unfold arbitrateDevice at h
  split at h
  case isFalse => cases h; exact .inl rfl
  case isTrue =>
    split at h
    case h_1 answer => cases h; exact .inr ⟨by simp [answer], rfl⟩
    case h_2 v answer =>
      split at h
      case isTrue zero => cases h; exact .inr ⟨by simp [answer, zero], rfl⟩
      case isFalse => exact absurd h takeAtBoundary_ne_idle

/-- An idle ladder has changed nothing, or has come down to the device rung, as it would with any other VIRQ. -/
theorem arbitrateExt_idle_cases {s t : State} (h : arbitrateExt s = .idle t) :
    t = s ∨ arbitrateDevice s = .idle t ∧ ∀ virq calls,
      arbitrateExt { s with virq := virq, calls := calls } = arbitrateDevice { s with virq := virq, calls := calls } := by
  unfold arbitrateExt at h
  split at h
  · exact absurd h takeBusFault_ne_idle
  next noBusFault =>
  split at h
  · exact absurd h takeAtBoundary_ne_idle
  next noTrace =>
  split at h
  · exact absurd h takeAtBoundary_ne_idle
  next noHalt =>
  split at h
  · cases h; exact .inl rfl
  next unmasked =>
  split at h
  · exact absurd h takeAtBoundary_ne_idle
  next noPowerFail =>
  split at h
  · exact absurd h takeAtBoundary_ne_idle
  next noEvent =>
  exact .inr ⟨h, fun virq calls => by
    rw [arbitrateExt, if_neg noBusFault, if_neg noTrace, if_neg noHalt, if_neg unmasked, if_neg noPowerFail,
      if_neg noEvent]⟩

/-- VIRQ cleared, the calls of the chain's walk noted, and nothing else changed. -/
def State.askedInVain (s : State) : State := { s with virq := false, calls := s.ackChain.calls }

/-- An idle arbiter of EXTENDED is idle again after it. -/
theorem arbitrateExt_idle_again {s t : State} (h : arbitrateExt s = .idle t) :
    (t = s ∨ t = s.askedInVain) ∧ arbitrateExt t = .idle t := by
  rcases arbitrateExt_idle_cases h with rfl | ⟨device, again⟩
  · exact ⟨.inl rfl, h⟩
  rcases arbitrateDevice_idle_cases device with rfl | ⟨noVector, rfl⟩
  · exact ⟨.inl rfl, h⟩
  · have kept : s.ackChain.chain = s.chain := walkChain_of_no_vector s.chain 0 noVector
    have asked : { s.ackChain with virq := false } = s.askedInVain := by
      change { s with chain := s.ackChain.chain, virq := false, calls := s.ackChain.calls } = s.askedInVain
      rw [kept]; rfl
    rw [asked]
    exact ⟨.inr rfl, again false s.ackChain.calls⟩

end Sys2Proof.Machine
end

section
open Sys2Proof Sys2Proof.Machine

/-- Settles O59: the walk passes those that are not pending or decline, and ends at the one that answers. -/
theorem chainWalk : Obligations.ChainWalk := by
  refine ⟨fun s before after p v chain decline pending answer => ?_, fun s decline => walkChain_declined decline 0⟩
  have walk : walkChain s.chain 0 =
      (some v, before ++ { p with pending := v == 0 } :: after, pendingFrom (before ++ [p]) 0) := by
    have asked : pendingFrom (before ++ [p]) 0 = pendingFrom before 0 ++ [0 + before.length] := by
      simp [pendingFrom, List.zipIdx_append, pending]
    rw [chain, walkChain_append decline, walkChain_answered pending answer, asked]
  refine ⟨by rw [State.chainVector, walk], by rw [State.ackChain, walk, beq_eq_decide],
    (pendingFrom (before ++ [p]) 0).reverse, by rw [ackChain_calls, walk], ?_, fun k => ?_⟩
  · exact List.pairwise_reverse.mpr (pendingFrom_increasing _ 0)
  · have asked : (before ++ p :: after).take (before.length + 1) = before ++ [p] := by simp [List.take_append]
    rw [List.mem_reverse, mem_pendingFrom_zero, chain, ← asked, List.getElem?_take]
    simp [and_assoc]

/-- Settles O9: no input but a reset touches the stuck state, and a stuck core answers the state it finds. -/
theorem stuckUntilReset : Obligations.StuckUntilReset := by
  intro s stuck noReset
  have still : s.takeInputs.doubleFault = true := (takeInputs_held noReset).doubleFault.trans stuck
  exact ⟨by rw [step, coreStep, if_pos still], still⟩

/-- Settles O11: BASE changes nothing; the ladder of EXTENDED may clear VIRQ, and then finds it clear. -/
theorem idleArbiterChangesNothing : Obligations.IdleArbiterChangesNothing := by
  intro s t idle
  cases variant : s.params.variant with
  | base =>
    obtain rfl : t = s := arbitrateBase_idle (arbitrate_base variant ▸ idle)
    exact ⟨rfl, .inl rfl, fun _ => rfl, idle⟩
  | extended =>
    have ext : s.extended = true := by simp [State.extended, variant]
    obtain ⟨rfl | rfl, again⟩ := arbitrateExt_idle_again (arbitrate_extended variant ▸ idle)
    · exact ⟨rfl, .inl rfl, fun _ => rfl, idle⟩
    · have ladder : arbitrate s.askedInVain = arbitrateExt s.askedInVain := arbitrate_extended variant
      exact ⟨rfl, .inr ⟨ext, rfl⟩, fun base => absurd ext (by simp [base]), ladder.trans again⟩

end

section
/-! PROOFS. Where a trap sequence and the halt path can be stopped, and what they keep until then: the fault of a
misaligned vector (spec/60_exceptions.md R478), the aborted sequence (R503) and the double fault (R504). -/

namespace Sys2Proof.Machine

variable {α β : Type}

/-! ### Relations that both sequences respect -/

/-- What relations need so that a trap sequence and the halt path respect them: `P` up to the install, `E` at the end,
`Q` where they are stopped. -/
structure SequenceRelated (P E : State → State → Prop) (Q : Stop → State → State → Prop) : Prop where
  composes    : Composes P Q
  access      : AccessRelated P Q
  setSp       : ∀ s v, P s (s.setReg .sp v)
  leave       : ∀ s : State, P s s.leavePrivileged
  enter       : ∀ s : State, P s s.enterHalt
  install     : ∀ (s : State) newPc newPsw, E s (s.install newPc newPsw)
  installHalt : ∀ (s : State) newPc newPsw, E s (s.installHalt newPc newPsw)
  ends        : ∀ {s t u}, P s t → E t u → E s u
  misaligned  : ∀ s vec, Q (.misaligned vec) s s

section
variable {P E : State → State → Prop} {Q : Stop → State → State → Prop}

/-- A part of a sequence, before its install. -/
theorem SequenceRelated.part (k : SequenceRelated P E Q) {x : Act α} {f : α → Act β} (hx : Relates P Q x)
    (hf : ∀ a, Relates E Q (f a)) : Relates E Q (x >>= f) :=
  relates_bind_end (E := E) (Q := Q) k.ends k.composes.stop hx fun a _ => hf a

theorem SequenceRelated.checkVector (k : SequenceRelated P E Q) (vec : Word) : Relates P Q (checkVector vec) where
  ok h := by
    unfold Machine.checkVector at h
    split at h <;> cases h
    exact k.composes.refl _
  error h := by
    unfold Machine.checkVector at h
    split at h <;> cases h
    exact k.misaligned _ vec

theorem trapSequence_eq (vec : Word) (middle : State → State) : trapSequence vec middle =
    checkVector vec >>= fun _ => update State.leavePrivileged >>= fun _ =>
    trapBody vec middle >>= fun p => update fun s => s.install p.1 p.2 := by
  simp only [trapSequence, trapBody, pushBoth, bind_assoc, pure_bind]

theorem SequenceRelated.trapSequence (k : SequenceRelated P E Q) (vec : Word) {middle : State → State}
    (mid : ∀ s, P s (middle s)) : Relates E Q (trapSequence vec middle) := by
  rw [trapSequence_eq]
  exact k.part (k.checkVector vec) fun _ => k.part (relates_update k.leave) fun _ =>
    k.part (relates_trapBody k.composes k.access k.setSp vec mid) fun p =>
      relates_update fun s => k.install s p.1 p.2

theorem SequenceRelated.trap (k : SequenceRelated P E Q) (vec : Word) : Relates E Q (trap vec) :=
  k.trapSequence vec k.composes.refl

theorem SequenceRelated.haltPath (k : SequenceRelated P E Q) : Relates E Q haltPath := by
  have c := k.composes
  rw [haltPath_eq]
  exact k.part (relates_look c _) fun vec => k.part (k.checkVector vec) fun _ => k.part (relates_look c _) fun oldPsw =>
    k.part (relates_update k.enter) fun _ => k.part (relates_haltBody c k.access k.setSp vec oldPsw) fun p =>
      relates_update fun s => k.installHalt s p.1 p.2

end

/-! ### The record of failures, and the lines that no sequence touches -/

theorem noFailure_sequence : SequenceRelated Underway NoFailure FailureStop where
  composes := underway_composes
  access := underway_access
  setSp := underway_setReg .sp
  leave _ := .of_eq
  enter := underway_enterHalt
  install _ _ _ := .of_eq
  installHalt _ _ _ := ⟨rfl, rfl⟩
  ends h := h.toNoFailure.trans
  misaligned _ _ := nofun

/-- The power-fail request, VIRQ and the stuck state are kept. -/
structure LinesHeld (s t : State) : Prop where
  powerFail : t.powerFailReq = s.powerFailReq
  virq      : t.virq = s.virq
  stuck     : t.doubleFault = s.doubleFault

theorem LinesHeld.of_eq {s t : State} (powerFail : t.powerFailReq = s.powerFailReq := by simp)
    (virq : t.virq = s.virq := by simp) (stuck : t.doubleFault = s.doubleFault := by simp) : LinesHeld s t :=
  ⟨powerFail, virq, stuck⟩

theorem LinesHeld.trans {s t u : State} (h : LinesHeld s t) (k : LinesHeld t u) : LinesHeld s u :=
  ⟨k.powerFail.trans h.powerFail, k.virq.trans h.virq, k.stuck.trans h.stuck⟩

theorem linesHeld_composes : Composes LinesHeld fun _ => LinesHeld := ⟨fun _ => .of_eq, .trans, .trans⟩

theorem linesHeld_access : AccessRelated LinesHeld fun _ => LinesHeld where
  call _ _ := .of_eq
  failed _ := ⟨rfl, rfl, rfl⟩
  store _ _ _ _ := .of_eq

theorem linesHeld_sequence : SequenceRelated LinesHeld LinesHeld fun _ => LinesHeld where
  composes := linesHeld_composes
  access := linesHeld_access
  setSp _ _ := .of_eq
  leave _ := .of_eq
  enter _ := ⟨rfl, rfl, rfl⟩
  install _ _ _ := .of_eq
  installHalt _ _ _ := ⟨rfl, rfl, rfl⟩
  ends := .trans
  misaligned _ _ := .of_eq

theorem linesHeld_trapReturn : Relates LinesHeld (fun _ => LinesHeld) trapReturn where
  ok h := by
    have kept := (trapReturn_frame.ok h).kept
    exact ⟨kept.powerFailReq, kept.virq, kept.doubleFault⟩
  error h := by
    have rest := (trapReturn_frame.error h).2.rest
    exact ⟨rest.powerFailReq, rest.virq, rest.doubleFault⟩

theorem linesHeld_related : Related LinesHeld LinesHeld (fun _ => LinesHeld) True where
  composes := linesHeld_composes
  access := linesHeld_access
  setReg _ _ _ := .of_eq
  same _ := .of_eq
  ends := .trans
  flags _ _ _ := .of_eq
  operator _ _ _ := .of_eq
  wait _ := .of_eq
  busReset _ := .of_eq
  mtps _ _ _ _ := .of_eq
  trap _ vec _ := linesHeld_sequence.trap vec
  trapReturn _ := linesHeld_trapReturn

/-! ### An instruction never makes the core stuck -/

/-- HALT is one of the two sequences, and every other instruction a rule of the relation. -/
theorem exec_linesHeld {i : Instr} {s t : State} (h : exec i s = .next t) : LinesHeld s t := by
  have performed {how : Completion} {rule : Act Unit} (k : Relates LinesHeld (fun _ => LinesHeld) rule)
      (run : perform how rule s = .next t) : LinesHeld s t := by
    rcases perform_next run with ⟨u, ended, rfl⟩ | ⟨u, failed, rfl⟩
    · exact (k.ok ended).trans .of_eq
    · exact (k.error failed).trans .of_eq
  by_cases halt : i = .halt
  · subst halt
    cases ext : s.extended
    · exact performed (linesHeld_sequence.trap _) (exec_halt_base ext ▸ h)
    · exact performed linesHeld_sequence.haltPath (exec_halt_extended ext ▸ h)
  · obtain ⟨how, rule, run, k⟩ := linesHeld_related.exec i (fun _ => trivial) halt
    exact performed k (run s ▸ h)

theorem executeOne_linesHeld {s t : State} (h : executeOne s = .next t) : LinesHeld s t := by
  have fetched : LinesHeld s s.fetched := ⟨rfl, rfl, rfl⟩
  rcases executeOne_cases s with ⟨-, run⟩ | ⟨-, run⟩ | ⟨v, -, run⟩ <;> rw [run] at h
  · cases h
    rw [abortFetch_failed, begin_eq]
    exact ⟨rfl, rfl, rfl⟩
  · exact fetched.trans (exec_linesHeld h)
  · exact fetched.trans (exec_linesHeld h)

/-! ### A sequence at a boundary -/

theorem takeAtBoundary_taken {sequence : Act Unit} {after : State → State} {s t : State}
    (h : takeAtBoundary sequence after s = .taken t) :
    (∃ u, sequence s = .ok () u ∧ t = after u) ∨
    (∃ u, sequence s = .error .busFailure u ∧ t = u.abortSequence s) := by
  unfold takeAtBoundary at h
  split at h <;> cases h
  · exact .inl ⟨_, ‹_›, rfl⟩
  · exact .inr ⟨_, ‹_›, rfl⟩

/-- What a sequence that a bus failure aborted leaves at a boundary. -/
structure Interrupted (s t : State) : Prop extends LinesHeld s t where
  regs    : t.regs = s.regs
  psw     : t.psw = s.psw
  wait    : t.waitState = s.waitState
  trace   : t.tracePending = s.tracePending
  event   : t.eventLatch = s.eventLatch
  pending : t.busFaultPending = true
  count   : t.busFaultCount = s.busFaultCount + 1

/-- The sequence ended, with no failure recorded and the core not stuck by it, or it was aborted. -/
def BoundaryTaken (s t : State) : Prop :=
  (t.busFaultPending = s.busFaultPending ∧ t.doubleFault = s.doubleFault) ∨ Interrupted s t

theorem interrupted_abortSequence {s u : State} (failure : OneFailure s u) (lines : LinesHeld s u) :
    Interrupted s (u.abortSequence s) where
  powerFail := by simp [State.abortSequence, lines.powerFail]
  virq := by simp [State.abortSequence, lines.virq]
  stuck := by simp [State.abortSequence, lines.stuck]
  regs := by simp [State.abortSequence, State.snapshot]
  psw := by simp [State.abortSequence, State.snapshot]
  wait := by simp [State.abortSequence, failure.wait]
  trace := by simp [State.abortSequence, failure.trace]
  event := rfl
  pending := by simp [State.abortSequence, failure.pending]
  count := by simp [State.abortSequence, failure.count]

section
variable {sequence : Act Unit} {after : State → State} {s t : State}

theorem boundaryTaken_of_sequence (record : Relates NoFailure FailureStop sequence)
    (lines : Relates LinesHeld (fun _ => LinesHeld) sequence)
    (h : takeAtBoundary sequence after s = .taken t)
    (consumes : ∀ u, (after u).busFaultPending = u.busFaultPending ∧ (after u).doubleFault = u.doubleFault) :
    BoundaryTaken s t := by
  rcases takeAtBoundary_taken h with ⟨u, ended, rfl⟩ | ⟨u, failed, rfl⟩
  · obtain ⟨pending, stuck⟩ := consumes u
    exact .inl ⟨pending.trans (record.ok ended).pending, stuck.trans (lines.ok ended).stuck⟩
  · exact .inr (interrupted_abortSequence (record.error failed rfl) (lines.error failed))

theorem boundaryTaken_of_trap {vec : Word} (h : takeAtBoundary (trap vec) after s = .taken t)
    (consumes : ∀ u, (after u).busFaultPending = u.busFaultPending ∧ (after u).doubleFault = u.doubleFault) :
    BoundaryTaken s t :=
  boundaryTaken_of_sequence (noFailure_sequence.trap vec) (linesHeld_sequence.trap vec) h consumes

theorem boundaryTaken_of_vectoredInterrupt {vec : Word}
    (h : takeAtBoundary (vectoredInterrupt vec) id s = .taken t) : BoundaryTaken s t :=
  have record := noFailure_sequence.trapSequence vec (middle := fun s => { s with eventLatch := false })
    fun _ => ⟨⟨rfl, rfl⟩, rfl, rfl, rfl, rfl⟩
  have lines := linesHeld_sequence.trapSequence vec (middle := fun s => { s with eventLatch := false })
    fun _ => ⟨rfl, rfl, rfl⟩
  boundaryTaken_of_sequence record lines h fun _ => ⟨rfl, rfl⟩

/-- An acknowledgement before the sequence touches nothing that this speaks of. -/
theorem BoundaryTaken.acknowledged {a : State} (h : BoundaryTaken a t)
    (same : a = { s with irqState := a.irqState, irqAnswers := a.irqAnswers, chain := a.chain, calls := a.calls }) :
    BoundaryTaken s t := by
  rw [same] at h
  exact h.imp id fun k => ⟨⟨k.powerFail, k.virq, k.stuck⟩, k.regs, k.psw, k.wait, k.trace, k.event, k.pending, k.count⟩

end

theorem arbitrateBase_taken {s t : State} (quiet : s.busFaultPending = false) (h : arbitrateBase s = .taken t) :
    BoundaryTaken s t := by
  unfold arbitrateBase at h
  rw [if_neg (by simp [quiet])] at h
  split at h
  · exact boundaryTaken_of_trap h fun _ => ⟨rfl, rfl⟩
  split at h
  · cases h
  split at h
  · exact (boundaryTaken_of_trap h fun _ => ⟨rfl, rfl⟩).acknowledged rfl
  · cases h

theorem arbitrateDevice_taken {s t : State} (h : arbitrateDevice s = .taken t) : BoundaryTaken s t := by
  unfold arbitrateDevice at h
  split at h
  · split at h
    · cases h
    split at h
    · cases h
    · exact (boundaryTaken_of_vectoredInterrupt h).acknowledged rfl
  · cases h

theorem arbitrateExt_taken {s t : State} (quiet : s.busFaultPending = false) (h : arbitrateExt s = .taken t) :
    BoundaryTaken s t := by
  unfold arbitrateExt at h
  rw [if_neg (by simp [quiet])] at h
  split at h
  · exact boundaryTaken_of_trap h fun _ => ⟨rfl, rfl⟩
  split at h
  · exact boundaryTaken_of_sequence noFailure_sequence.haltPath linesHeld_sequence.haltPath h fun _ => ⟨rfl, rfl⟩
  split at h
  · cases h
  split at h
  · exact boundaryTaken_of_trap h fun _ => ⟨rfl, rfl⟩
  split at h
  · exact boundaryTaken_of_trap h fun _ => ⟨rfl, rfl⟩
  · exact arbitrateDevice_taken h

/-- All a trap at a boundary can do once no bus failure is pending. -/
theorem arbitrate_taken {s t : State} (quiet : s.busFaultPending = false) (h : arbitrate s = .taken t) :
    BoundaryTaken s t := by
  unfold arbitrate at h
  split at h
  · exact arbitrateBase_taken quiet h
  · exact arbitrateExt_taken quiet h

/-! ### The bus-fault trap -/

/-- A pending bus failure comes before every other request, in either variant. -/
theorem arbitrate_of_busFault {s : State} (pending : s.busFaultPending = true) : arbitrate s = takeBusFault s := by
  unfold arbitrate
  split
  · rw [arbitrateBase, if_pos pending]
  · rw [arbitrateExt, if_pos pending]

/-- The state in which the bus-fault trap's own sequence runs. -/
def State.faultTaken (s : State) : State := { s with busFaultPending := false }

theorem takeBusFault_ended {s t : State} (run : trap Config.vecBusFault s.faultTaken = .ok () t) :
    takeBusFault s = .taken t := by
  unfold State.faultTaken at run
  simp only [takeBusFault, run]

theorem takeBusFault_failed {s u : State} (run : trap Config.vecBusFault s.faultTaken = .error .busFailure u) :
    takeBusFault s = .taken { u.abortSequence s.faultTaken with doubleFault := true } := by
  unfold State.faultTaken at run ⊢
  simp only [takeBusFault, run]

/-- What the double fault leaves. -/
theorem doubleFault_leaves {s u : State} (run : trap Config.vecBusFault s.faultTaken = .error .busFailure u) :
    ∃ t, takeBusFault s = .taken t ∧ t.doubleFault = true ∧ t.regs = s.regs ∧ t.psw = s.psw ∧ t.mem = u.mem ∧
      t.busFaultCount = s.busFaultCount + 1 := by
  have left := interrupted_abortSequence ((noFailure_sequence.trap _).error run rfl) ((linesHeld_sequence.trap _).error run)
  exact ⟨_, takeBusFault_failed run, rfl, left.regs, left.psw, by simp [State.abortSequence], left.count⟩

end Sys2Proof.Machine
end

section
/-! PROOFS. The only stop that is not a bus failure, a misaligned vector (spec/60_exceptions.md R478), and the accesses
that a trap which runs to its end has made (R475, R504). -/

namespace Sys2Proof.Machine

variable {α β : Type}

/-! ### Stops of a sequence -/

/-- No relation between states is asked: the stop is a bus failure. -/
def FailsAlone (e : Stop) (_ _ : State) : Prop := e = .busFailure

theorem failsAlone_composes : Composes (fun _ _ => True) FailsAlone := ⟨fun _ => trivial, fun _ _ => trivial, fun _ => id⟩

theorem failsAlone_access : AccessRelated (fun _ _ => True) FailsAlone :=
  { call := fun _ _ => trivial, failed := fun _ => rfl, store := fun _ _ _ _ => trivial }

/-- The vector is checked before any access, and after it only a bus failure can stop the sequence. -/
theorem trapSequence_misaligned {vec v : Word} {middle : State → State} {s t : State}
    (h : trapSequence vec middle s = .error (.misaligned v) t) : v = vec ∧ vec &&& 3 ≠ 0 := by
  have body := relates_trapBody failsAlone_composes failsAlone_access (fun _ _ => trivial) vec
    (middle := middle) fun _ => trivial
  rw [trapSequence_run] at h
  split at h
  case isTrue =>
    rcases run : trapBody vec middle s.leavePrivileged with ⟨p, u⟩ | ⟨e, u⟩ <;> rw [run] at h <;> cases h
    cases body.error run
  case isFalse misaligned => cases h; exact ⟨rfl, misaligned⟩

theorem haltPath_misaligned {v : Word} {s t : State} (h : haltPath s = .error (.misaligned v) t) :
    v = s.params.haltVector ∧ s.params.haltVector &&& 3 ≠ 0 := by
  have body := relates_haltBody failsAlone_composes failsAlone_access (fun _ _ => trivial)
    s.params.haltVector s.psw
  rw [haltPath_run] at h
  split at h
  case isTrue =>
    rcases run : haltBody s.params.haltVector s.psw s.enterHalt with ⟨p, u⟩ | ⟨e, u⟩ <;> rw [run] at h <;> cases h
    cases body.error run
  case isFalse misaligned => cases h; exact ⟨rfl, misaligned⟩

theorem trap_failsAlone {vec : Word} (aligned : vec &&& 3 = 0) : Relates (fun _ _ => True) FailsAlone (trap vec) where
  ok _ := trivial
  error {s e t} h := by
    cases e with
    | busFailure => rfl
    | misaligned v => exact absurd aligned (trapSequence_misaligned h).2

theorem trapReturn_failsAlone : Relates (fun _ _ => True) FailsAlone trapReturn :=
  ⟨fun _ => trivial, fun h => (trapReturn_frame.error h).1⟩

/-! ### Stops of an instruction -/

theorem failsAlone_related : Related (fun _ _ => True) (fun _ _ => True) FailsAlone True where
  composes := failsAlone_composes
  access := failsAlone_access
  setReg _ _ _ := trivial
  same _ := trivial
  ends _ _ := trivial
  flags _ _ _ := trivial
  operator _ _ _ := trivial
  wait _ := trivial
  busReset _ := trivial
  mtps _ _ _ _ := trivial
  trap _ _ aligned := trap_failsAlone aligned
  trapReturn _ := trapReturn_failsAlone

theorem perform_ne_refused {how : Completion} {rule : Act Unit} {s : State} {r : Refusal} :
    perform how rule s ≠ .refused r := by
  unfold perform; split <;> nofun

theorem perform_fault {how : Completion} {rule : Act Unit} {s : State} {f : Fault} (h : perform how rule s = .fault f) :
    ∃ vec u, rule s = .error (.misaligned vec) u ∧ f = .vectorMisaligned vec := by
  unfold perform at h
  split at h <;> cases h
  exact ⟨_, _, ‹_›, rfl⟩

theorem exec_halt_misaligned {s : State} (ext : s.extended = true) (misaligned : s.params.haltVector &&& 3 ≠ 0) :
    exec .halt s = .fault (.vectorMisaligned s.params.haltVector) := by
  rw [exec_halt_extended ext, perform, haltPath_run, if_neg misaligned]

/-- HALT performs the halt path or a trap, and each other instruction a rule that a bus failure alone can stop. -/
theorem exec_ne_refused (i : Instr) (s : State) (r : Refusal) : exec i s ≠ .refused r := by
  by_cases halt : i = .halt
  · subst halt
    exact perform_ne_refused
  · obtain ⟨how, rule, run, -⟩ := failsAlone_related.exec i (fun _ => trivial) halt
    rw [run]
    exact perform_ne_refused

theorem exec_fault {i : Instr} {s : State} {f : Fault} (h : exec i s = .fault f) :
    i = .halt ∧ s.extended = true ∧ s.params.haltVector &&& 3 ≠ 0 ∧ f = .vectorMisaligned s.params.haltVector := by
  by_cases halt : i = .halt
  · subst halt
    cases ext : s.extended
    · rw [exec_halt_base ext] at h
      obtain ⟨vec, u, stop, -⟩ := perform_fault h
      exact absurd (by decide) (trapSequence_misaligned stop).2
    · rw [exec_halt_extended ext] at h
      obtain ⟨vec, u, stop, rfl⟩ := perform_fault h
      obtain ⟨rfl, misaligned⟩ := haltPath_misaligned stop
      exact ⟨rfl, rfl, misaligned, rfl⟩
  · obtain ⟨how, rule, run, k⟩ := failsAlone_related.exec i (fun _ => trivial) halt
    rw [run] at h
    obtain ⟨vec, u, stop, -⟩ := perform_fault h
    cases k.error stop

/-! ### Stops of a step -/

/-- A fault of R478. -/
def Misaligned (f : Fault) : Prop := ∃ vec : Word, f = .vectorMisaligned vec ∧ vec &&& 3 ≠ 0

theorem takeAtBoundary_fault {sequence : Act Unit} {after : State → State} {s : State} {f : Fault}
    (h : takeAtBoundary sequence after s = .fault f) :
    ∃ vec u, sequence s = .error (.misaligned vec) u ∧ f = .vectorMisaligned vec := by
  unfold takeAtBoundary at h
  split at h <;> cases h
  exact ⟨_, _, ‹_›, rfl⟩

theorem misaligned_of_trapSequence {vec : Word} {middle after : State → State} {s : State} {f : Fault}
    (h : takeAtBoundary (trapSequence vec middle) after s = .fault f) : Misaligned f := by
  obtain ⟨v, u, stop, rfl⟩ := takeAtBoundary_fault h
  obtain ⟨rfl, misaligned⟩ := trapSequence_misaligned stop
  exact ⟨_, rfl, misaligned⟩

theorem misaligned_of_haltPath {after : State → State} {s : State} {f : Fault}
    (h : takeAtBoundary haltPath after s = .fault f) : Misaligned f := by
  obtain ⟨v, u, stop, rfl⟩ := takeAtBoundary_fault h
  obtain ⟨rfl, misaligned⟩ := haltPath_misaligned stop
  exact ⟨_, rfl, misaligned⟩

theorem takeBusFault_ne_fault {s : State} {f : Fault} : takeBusFault s ≠ .fault f := by
  unfold takeBusFault
  dsimp only
  split
  · nofun
  · nofun
  next stop => exact absurd (by decide) (trapSequence_misaligned stop).2

theorem arbitrate_fault {s : State} {f : Fault} (h : arbitrate s = .fault f) : Misaligned f := by
  unfold arbitrate at h
  split at h
  · unfold arbitrateBase at h
    split at h
    · exact absurd h takeBusFault_ne_fault
    split at h
    · exact misaligned_of_trapSequence h
    split at h
    · cases h
    split at h
    · exact misaligned_of_trapSequence h
    · cases h
  · unfold arbitrateExt at h
    split at h
    · exact absurd h takeBusFault_ne_fault
    split at h
    · exact misaligned_of_trapSequence h
    split at h
    · exact misaligned_of_haltPath h
    split at h
    · cases h
    split at h
    · exact misaligned_of_trapSequence h
    split at h
    · exact misaligned_of_trapSequence h
    unfold arbitrateDevice at h
    split at h
    · split at h
      · cases h
      split at h
      · cases h
      · exact misaligned_of_trapSequence h
    · cases h

theorem executeOne_ne_refused (s : State) (r : Refusal) : executeOne s ≠ .refused r := by
  rcases executeOne_cases s with ⟨-, run⟩ | ⟨-, run⟩ | ⟨v, -, run⟩ <;> rw [run]
  · nofun
  · exact exec_ne_refused _ _ r
  · exact exec_ne_refused _ _ r

theorem executeOne_fault {s : State} {f : Fault} (h : executeOne s = .fault f) : Misaligned f := by
  have halted {i : Instr} (run : exec i s.fetched = .fault f) : Misaligned f := by
    obtain ⟨-, -, misaligned, fault⟩ := exec_fault run
    exact ⟨_, fault, misaligned⟩
  rcases executeOne_cases s with ⟨-, run⟩ | ⟨-, run⟩ | ⟨v, -, run⟩ <;> rw [run] at h
  · cases h
  · exact halted h
  · exact halted h

/-! ### The accesses of a sequence that ends -/

/-- An action that ends has used the next `n` answers of the bus, and none of them was a failure. -/
def Consumes (n : Nat) (m : Act α) : Prop :=
  ∀ ⦃s : State⦄ ⦃a : α⦄ ⦃t : State⦄, m s = .ok a t → .fail ∉ s.answers.take n ∧ t.answers = s.answers.drop n

theorem consumes_update {f : State → State} (same : ∀ s, (f s).answers = s.answers) : Consumes 0 (update f) := by
  rintro s a t h
  cases h
  exact ⟨by simp, same s⟩

theorem consumes_look (f : State → α) : Consumes 0 (look f) := by
  rintro s a t h
  cases h
  exact ⟨by simp, rfl⟩

theorem Consumes.after_silent {n : Nat} {x : Act α} {f : α → Act β} (hx : Consumes 0 x)
    (hf : ∀ a, Consumes n (f a)) : Consumes n (x >>= f) := by
  intro s b u h
  obtain ⟨a, t, first, rest⟩ := act_bind_inv h
  have left : t.answers = s.answers := (hx first).2
  rw [← left]
  exact hf a rest

theorem Consumes.after_access {n : Nat} {x : Act α} {f : α → Act β} (hx : Consumes 1 x)
    (hf : ∀ a, Consumes n (f a)) : Consumes (n + 1) (x >>= f) := by
  intro s b u h
  obtain ⟨a, t, first, rest⟩ := act_bind_inv h
  obtain ⟨before, left⟩ := hx first
  obtain ⟨after, last⟩ := hf a rest
  rw [left] at after last
  rw [Nat.add_comm, List.take_add, List.mem_append]
  exact ⟨not_or.mpr ⟨before, after⟩, by rw [last, List.drop_drop]⟩

theorem not_mem_take_one {s : State} (h : s.nextAnswer ≠ .fail) : .fail ∉ s.answers.take 1 := by
  unfold State.nextAnswer at h
  cases answers : s.answers with
  | nil => simp
  | cons first rest => simpa [answers, eq_comm] using h

theorem consumes_memRead (sz : Size) (a : Word) : Consumes 1 (memRead sz a) := by
  intro s v t h
  rcases memRead_cases sz a s with ⟨-, run⟩ | ⟨-, -, run⟩ | ⟨-, answer, run⟩ | ⟨w, -, answer, run⟩ <;> rw [run] at h <;>
    cases h
  all_goals exact ⟨not_mem_take_one (by simp [answer]), by simp⟩

theorem consumes_memWrite (sz : Size) (a v : Word) : Consumes 1 (memWrite sz a v) := by
  intro s u t h
  rcases memWrite_cases sz a v s with ⟨-, run⟩ | ⟨-, -, run⟩ | ⟨-, answer, run⟩ | ⟨w, -, answer, run⟩ <;> rw [run] at h <;>
    cases h
  all_goals exact ⟨not_mem_take_one (by simp [answer]), by simp⟩

theorem consumes_push (v : Word) : Consumes 1 (push v) := by
  unfold push
  exact .after_silent (consumes_update fun _ => rfl) fun _ => .after_silent (consumes_look _) fun _ =>
    consumes_memWrite _ _ _

theorem consumes_checkVector (vec : Word) : Consumes 0 (checkVector vec) := by
  intro s a t h
  unfold checkVector at h
  split at h <;> cases h
  exact ⟨by simp, rfl⟩

/-- The two vector reads and the two pushes. -/
theorem consumes_trap (vec : Word) : Consumes 4 (trap vec) := by
  unfold trap trapSequence
  refine .after_silent (consumes_checkVector vec) fun _ => .after_silent (consumes_update leavePrivileged_answers) fun _ => ?_
  refine .after_access (consumes_memRead _ _) fun _ => .after_access (consumes_memRead _ _) fun _ => ?_
  refine .after_silent (consumes_update fun _ => rfl) fun _ => .after_silent (consumes_look _) fun _ => ?_
  refine .after_access (consumes_push _) fun _ => .after_silent (consumes_look _) fun _ => ?_
  exact .after_access (consumes_push _) fun _ => consumes_update fun s => install_answers s _ _

/-- A word pushed under FAULT needs an even SP. -/
theorem push_even {v : Word} {s t : State} (fault : s.params.oddWord = .fault) (h : push v s = .ok () t) :
    (s.reg .sp).getLsbD 0 = false := by
  rw [Bool.eq_false_iff]
  intro odd
  have slot : (s.reg .sp - 2).getLsbD 0 = true := by
    rw [← BitVec.testBit_toNat, Nat.testBit_zero, decide_eq_true_iff] at odd ⊢
    rw [BitVec.toNat_sub, show (2 : Word).toNat = 2 from rfl]
    omega
  have fails := memWrite_of_oddFails (oddFails_of_fault (s := s.setReg .sp (s.reg .sp - 2)) fault slot) v
  rw [push_run, fails] at h
  cases h

theorem pushBoth_run (oldPsw : State → Word) (pair : Word × Word) (s : State) : pushBoth oldPsw pair s =
    (push (oldPsw s) >>= fun _ => getReg .pc >>= fun oldPc => push oldPc >>= fun _ => pure pair) s := rfl

/-- The vector reads move neither SP nor the policy, so the first push stands where SP was. -/
theorem trap_even {vec : Word} {s t : State} (fault : s.params.oddWord = .fault) (h : trap vec s = .ok () t) :
    (s.reg .sp).getLsbD 0 = false := by
  have read (a : Word) := relates_memRead (quiet_composes fun _ => False) (quiet_reads _) .word a
  rw [trap_eq] at h
  obtain ⟨_, s0, check, rest⟩ := act_bind_inv h
  obtain rfl : s0 = s := by unfold checkVector at check; split at check <;> cases check; rfl
  rw [bind_update] at rest
  obtain ⟨p, u, body, -⟩ := act_bind_inv rest
  obtain ⟨newPc, s1, read1, body1⟩ := act_bind_inv body
  obtain ⟨newPsw, s2, read2, body2⟩ := act_bind_inv body1
  rw [bind_update, pushBoth_run] at body2
  obtain ⟨_, s3, pushed, -⟩ := act_bind_inv body2
  have quiet := ((read vec).ok read1).trans ((read (vec + 2)).ok read2)
  have same : s2.reg .sp = s0.reg .sp := (quiet.regs .sp id).trans (by simp [State.reg])
  rw [← same]
  refine push_even ?_ pushed
  rw [quiet.rest.params, leavePrivileged_params, fault]

end Sys2Proof.Machine
end

section
open Sys2Proof Sys2Proof.Machine

/-- Settles O12: a rule or a sequence is stopped by a bus failure, but for the check of a vector, and HALT of EXTENDED
alone checks one that is no constant. -/
theorem onlyMisalignedVectorsStop : Obligations.OnlyMisalignedVectorsStop := by
  refine ⟨exec_ne_refused, fun s r => ?_, fun s f h => ?_, fun i s f => exec_fault, fun s => exec_halt_misaligned⟩
  · rw [step]
    rcases coreStep_cases s.takeInputs with ⟨-, e⟩ | ⟨-, u, -, e⟩ | ⟨-, f, -, e⟩ | ⟨-, u, -, -, e⟩ | ⟨-, u, -, -, e⟩ <;>
      rw [e]
    case inr.inr.inr.inr => exact executeOne_ne_refused u r
    all_goals nofun
  · rw [step] at h
    rcases coreStep_cases s.takeInputs with ⟨-, e⟩ | ⟨-, u, -, e⟩ | ⟨-, g, a, e⟩ | ⟨-, u, -, -, e⟩ | ⟨-, u, -, -, e⟩ <;>
      rw [e] at h
    case inr.inr.inl => cases h; exact arbitrate_fault a
    case inr.inr.inr.inr => exact executeOne_fault h
    all_goals cases h

/-- Settles O54: both arbiters look at it first, and the sequence that runs to its end records no failure. -/
theorem busFaultTrapFirst : Obligations.BusFaultTrapFirst := by
  intro s pending serves
  have answers : s.faultTaken.BusServes := ⟨serves.aligns, serves.answers⟩
  obtain ⟨t, enters, run⟩ := trap_enters answers (vec := Config.vecBusFault) (by decide)
  obtain ⟨cleared, count⟩ := (trap_failures _).ok run
  exact ⟨t, enters, (arbitrate_of_busFault pending).trans (takeBusFault_ended run), cleared, count⟩

/-- Settles O55: a sequence at any other boundary and every instruction leave the stuck state alone; the bus-fault trap
that ends has made its four accesses, none of them failed. -/
theorem doubleFaultOnlyThere : Obligations.DoubleFaultOnlyThere := by
  refine ⟨fun s t running h stuck => ?_, fun s u pending run => ?_, fun s pending failure => ?_⟩
  · have held {u : State} (k : u.doubleFault = s.doubleFault) : u.doubleFault = false := k.trans running
    rcases coreStep_cases s with ⟨k, -⟩ | ⟨-, u, taken, e⟩ | ⟨-, f, -, e⟩ | ⟨-, u, idle, -, e⟩ | ⟨-, u, idle, -, e⟩
    · rw [running] at k; cases k
    · rw [e] at h
      cases h
      cases pending : s.busFaultPending
      · have kept : t.doubleFault = s.doubleFault := (arbitrate_taken pending taken).elim (·.2) (·.stuck)
        rw [held kept] at stuck
        cases stuck
      · rw [arbitrate_of_busFault pending] at taken
        rcases run : trap Config.vecBusFault s.faultTaken with ⟨⟨⟩, u⟩ | ⟨_ | v, u⟩
        · rw [takeBusFault_ended run] at taken
          cases taken
          rw [held ((linesHeld_sequence.trap _).ok run).stuck] at stuck
          cases stuck
        · obtain ⟨t', taken', -, regs, psw, -, count⟩ := doubleFault_leaves run
          cases taken.symm.trans taken'
          exact ⟨rfl, regs, psw, count⟩
        · exact absurd (by decide) (trapSequence_misaligned run).2
    · rw [e] at h; cases h
    · rw [e] at h
      cases h
      rw [held (arbitrate_idle_held idle).1.doubleFault] at stuck
      cases stuck
    · rw [e] at h
      rw [held ((executeOne_linesHeld h).stuck.trans (arbitrate_idle_held idle).1.doubleFault)] at stuck
      cases stuck
  · rw [arbitrate_of_busFault pending]
    exact doubleFault_leaves run
  · rw [arbitrate_of_busFault pending]
    rcases run : trap Config.vecBusFault s.faultTaken with ⟨⟨⟩, u⟩ | ⟨_ | v, u⟩
    · rcases failure with failed | ⟨fault, odd⟩
      · exact absurd failed (consumes_trap _ run).1
      · cases (trap_even (s := s.faultTaken) fault run).symm.trans odd
    · obtain ⟨t, taken, stuck, -⟩ := doubleFault_leaves run
      exact ⟨t, taken, stuck⟩
    · exact absurd (by decide) (trapSequence_misaligned run).2

/-- Settles O56: a sequence that ends leaves no failure pending; the bank follows the PSW before and after. -/
theorem abortedSequenceKeepsRequest : Obligations.AbortedSequenceKeepsRequest := by
  intro s t inv quiet taken pending
  rcases arbitrate_taken quiet taken with ⟨same, -⟩ | left
  · rw [same, quiet] at pending
    cases pending
  · have progress := progress_arbitrate (.inl taken)
    have bank : t.bank = s.bank := by
      rw [(progress.inv inv).bank, inv.bank, left.psw, State.extended, State.extended, progress.params]
    exact ⟨left.regs, left.psw, left.wait, left.trace, left.event, left.powerFail, left.virq, bank, left.count,
      left.stuck⟩

end

section
/-! PROOFS. The two arbiters on a bus that answers, once no bus failure is pending (spec/60_exceptions.md R480 to R482,
R511, R520 to R530). -/

namespace Sys2Proof.Machine

/-! ### A sequence at a boundary, on a bus that answers -/

section
variable {s : State} {vec : Word}

theorem trap_taken (serves : s.BusServes) (aligned : vec &&& 3 = 0) (after : State → State) :
    ∃ t, TrapEnters vec s t ∧ takeAtBoundary (trap vec) after s = .taken (after t) := by
  obtain ⟨t, enters, run⟩ := trap_enters serves aligned
  exact ⟨t, enters, by rw [takeAtBoundary, run]⟩

theorem haltPath_taken (serves : s.BusServes) (aligned : s.params.haltVector &&& 3 = 0) :
    ∃ t, HaltEnters s t ∧ takeAtBoundary haltPath id s = .taken t := by
  obtain ⟨t, enters, run⟩ := haltPath_enters serves aligned
  exact ⟨t, enters, by rw [takeAtBoundary, run]; rfl⟩

theorem trapSequence_faults (misaligned : vec &&& 3 ≠ 0) (middle after : State → State) :
    takeAtBoundary (trapSequence vec middle) after s = .fault (.vectorMisaligned vec) := by
  rw [takeAtBoundary, trapSequence_run, if_neg misaligned]

theorem haltPath_faults (misaligned : s.params.haltVector &&& 3 ≠ 0) :
    takeAtBoundary haltPath id s = .fault (.vectorMisaligned s.params.haltVector) := by
  rw [takeAtBoundary, haltPath_run, if_neg misaligned]

/-- The vector reads leave the event latch alone, so to clear it after them is nothing where it is clear before. -/
theorem trapBody_clearEvent (clear : s.eventLatch = false) :
    trapBody vec (fun s => { s with eventLatch := false }) s = trapBody vec id s := by
  have read (a : Word) := relates_memRead (quiet_composes fun _ => False) (quiet_reads _) .word a
  unfold trapBody
  rw [act_bind, act_bind]
  rcases first : memRead .word vec s with ⟨newPc, s1⟩ | ⟨e, s1⟩
  · dsimp only
    rw [act_bind, act_bind]
    rcases second : memRead .word (vec + 2) s1 with ⟨newPsw, s2⟩ | ⟨e, s2⟩
    · have still : s2.eventLatch = false :=
        (((read vec).ok first).trans ((read (vec + 2)).ok second)).rest.eventLatch.trans clear
      have same : { s2 with eventLatch := false } = s2 := by rw [← still]
      dsimp only
      rw [bind_update, bind_update, same, id]
    · rfl
  · rfl

/-- The vectored interrupt is a trap where no event is latched. -/
theorem vectoredInterrupt_eq_trap (clear : s.eventLatch = false) : vectoredInterrupt vec s = trap vec s := by
  rw [vectoredInterrupt, trap, trapSequence_run, trapSequence_run, trapBody_clearEvent (by simp [clear])]

theorem vectoredInterrupt_taken (serves : s.BusServes) (clear : s.eventLatch = false) (aligned : vec &&& 3 = 0) :
    ∃ t, TrapEnters vec s t ∧ takeAtBoundary (vectoredInterrupt vec) id s = .taken t := by
  rw [takeAtBoundary, vectoredInterrupt_eq_trap clear]
  exact trap_taken serves aligned id

end

/-! ### Acknowledgements -/

theorem State.BusServes.irqAck {s : State} (h : s.BusServes) : s.irqAck.BusServes := ⟨h.aligns, h.answers⟩

theorem State.BusServes.ackChain {s : State} (h : s.BusServes) : s.ackChain.BusServes := ⟨h.aligns, h.answers⟩

end Sys2Proof.Machine
end

section
open Sys2Proof Sys2Proof.Machine

/-- Settles O57: the rungs of the base arbiter in their order. -/
theorem baseArbiter : Obligations.BaseArbiter := by
  intro s variant quiet serves
  have noBusFault : ¬ s.busFaultPending = true := by simp [quiet]
  rw [arbitrate_base variant, arbitrateBase, if_neg noBusFault]
  constructor
  · intro enabled trace
    rw [if_pos (by simp [enabled, trace])]
    exact trap_taken serves (by decide) _
  · intro noTrace
    rw [if_neg (by simpa using noTrace)]
    refine ⟨fun e entry above => ⟨fun aligned => ?_, fun misaligned => ?_⟩, fun e entry masked => ?_, fun entry => ?_⟩
    · simp only [entry, if_pos above]
      exact trap_taken serves.irqAck aligned id
    · simp only [entry, if_pos above]
      exact trapSequence_faults misaligned id id
    · simp only [entry, if_neg masked]
    · simp only [entry]

/-- Settles O58: the rungs of the ladder in their order; the device rung is reached with the event latch clear. -/
theorem extendedLadder : Obligations.ExtendedLadder := by
  intro s variant quiet serves
  have noBusFault : ¬ s.busFaultPending = true := by simp [quiet]
  rw [arbitrate_extended variant, arbitrateExt, if_neg noBusFault]
  simp only [Bool.and_eq_true, Bool.not_eq_true']
  by_cases trace : s.tracePending = true
  · simp only [if_pos trace]
    exact trap_taken serves (by decide) _
  simp only [if_neg trace]
  by_cases halt : s.haltLine = true ∧ flagH s.psw = false
  · simp only [if_pos halt]
    exact ⟨haltPath_taken serves, haltPath_faults⟩
  simp only [if_neg halt]
  by_cases masked : priority s.psw = 7
  · simp only [if_pos masked]
  simp only [if_neg masked]
  by_cases powerFail : s.powerFailReq = true ∧ flagH s.psw = false
  · simp only [if_pos powerFail]
    exact trap_taken serves (by decide) _
  simp only [if_neg powerFail]
  by_cases event : s.eventLatch = true
  · simp only [if_pos event]
    exact trap_taken serves (by decide) _
  simp only [if_neg event]
  have clear : s.eventLatch = false := by simpa using event
  rw [arbitrateDevice]
  cases virq : s.virq
  · simp
  cases vector : s.chainVector with
  | none => simp
  | some v =>
    simp only [if_true, reduceCtorEq, if_false]
    by_cases zero : v = 0
    · simp only [if_pos zero]
    simp only [if_neg zero]
    by_cases aligned : v &&& 3 = 0
    · rw [if_pos aligned]
      exact vectoredInterrupt_taken serves.ackChain clear aligned
    · rw [if_neg aligned]
      exact trapSequence_faults aligned _ id

end

section
/-! PROOFS. Exceptions on a bus that plain memory answers, written out (spec/60_exceptions.md R475, R476, R530), and the
return from one (R545). -/

namespace Sys2Proof.Machine

/-! ### Addresses -/

theorem getLsbD_zero_add_two (a : Word) : (a + 2).getLsbD 0 = a.getLsbD 0 := by
  rw [← BitVec.testBit_toNat, ← BitVec.testBit_toNat, Nat.testBit_zero, Nat.testBit_zero, decide_eq_decide,
    BitVec.toNat_add, show (2 : Word).toNat = 2 from rfl]
  omega

theorem even_of_aligned {vec : Word} (aligned : vec &&& 3 = 0) : vec.getLsbD 0 = false := by
  have bit := congrArg (BitVec.getLsbD · 0) aligned
  simpa using bit

/-! ### The pushes -/

/-- The state after a push to plain memory. -/
def State.pushed (s : State) (v : Word) : State :=
  let a := alignWord (s.reg .sp - 2)
  ((s.setReg .sp (s.reg .sp - 2)).afterCall (.write a .word v)).storeMem .word a v

theorem State.PlainBus.push {s : State} (h : s.PlainBus) (v : Word) : push v s = .ok () (s.pushed v) := by
  rw [push_run, (h.setReg .sp _).memWrite, trim_word]
  rfl

theorem State.PlainBus.pushed {s : State} (h : s.PlainBus) (v : Word) : (s.pushed v).PlainBus := by
  unfold State.pushed
  exact ((h.setReg _ _).afterCall _).storeMem _ _ _

/-- The state after the vector reads and the pushes of an exception: the pair at `vec` read, `oldPsw` and PC pushed. -/
def State.entered (s : State) (vec oldPsw : Word) : State :=
  let a := alignWord (s.reg .sp - 2)
  let b := alignWord (s.reg .sp - 4)
  { s with
    regs  := s.regs.set .sp (s.reg .sp - 4)
    mem   := ((s.storeMem .word a oldPsw).storeMem .word b (s.reg .pc)).mem
    calls := [.write b .word (s.reg .pc), .write a .word oldPsw, .read (vec + 2) .word, .read vec .word] ++ s.calls }

/-- The state after the two vector reads. -/
def State.vectorRead (s : State) (vec : Word) : State :=
  (s.afterCall (.read vec .word)).afterCall (.read (vec + 2) .word)

/-- SP moves by 4 in all, and the old PC is still in its register when it is pushed. -/
theorem pushed_pushed_vectorRead {s : State} (h : s.PlainBus) (vec oldPsw : Word) :
    ((s.vectorRead vec).pushed oldPsw).pushed (((s.vectorRead vec).pushed oldPsw).reg .pc) = s.entered vec oldPsw := by
  have sp : s.reg .sp - 2 - 2 = s.reg .sp - 4 := BitVec.sub_sub _ _ _
  have answers := h.answers
  unfold State.entered
  rw [← sp]
  cases s
  cases answers
  rfl

theorem State.PlainBus.pushBoth {s : State} (h : s.PlainBus) (oldPsw : State → Word) (pair : Word × Word) :
    pushBoth oldPsw pair s = .ok pair ((s.pushed (oldPsw s)).pushed ((s.pushed (oldPsw s)).reg .pc)) := by
  rw [pushBoth_run, act_bind_ok (h.push _), bind_getReg, act_bind_ok ((h.pushed _).push _), act_pure]

section
variable {s : State} {vec : Word}

/-- A vector's address and the one after it need no alignment. -/
theorem State.PlainBus.vectorReads (h : s.PlainBus) (aligned : vec &&& 3 = 0) :
    Machine.memRead .word vec s = .ok (s.memValue .word vec) (s.afterCall (.read vec .word)) ∧
    Machine.memRead .word (vec + 2) (s.afterCall (.read vec .word)) = .ok (s.memValue .word (vec + 2)) (s.vectorRead vec) := by
  have even := even_of_aligned aligned
  have first : accessAddr .word vec = vec := alignWord_of_even even
  have second : accessAddr .word (vec + 2) = vec + 2 := alignWord_of_even (by rw [getLsbD_zero_add_two, even])
  rw [h.memRead, (h.afterCall _).memRead, first, second]
  exact ⟨rfl, rfl⟩

theorem State.PlainBus.vectorRead (h : s.PlainBus) : (s.vectorRead vec).PlainBus := (h.afterCall _).afterCall _

theorem State.PlainBus.trapBody (h : s.PlainBus) (aligned : vec &&& 3 = 0) : trapBody vec id s =
    .ok (s.memValue .word vec, s.memValue .word (vec + 2)) (s.entered vec s.psw) := by
  obtain ⟨first, second⟩ := h.vectorReads aligned
  unfold Machine.trapBody
  rw [act_bind_ok first, act_bind_ok second, bind_update, id, h.vectorRead.pushBoth, pushed_pushed_vectorRead h]
  rfl

theorem State.PlainBus.haltBody (h : s.PlainBus) (aligned : vec &&& 3 = 0) (oldPsw : Word) : haltBody vec oldPsw s =
    .ok (s.memValue .word vec, s.memValue .word (vec + 2)) (s.entered vec oldPsw) := by
  obtain ⟨first, second⟩ := h.vectorReads aligned
  unfold Machine.haltBody
  rw [act_bind_ok first, act_bind_ok second, h.vectorRead.pushBoth, pushed_pushed_vectorRead h]

/-! ### The sequences -/

theorem State.PlainBus.leavePrivileged (h : s.PlainBus) : s.leavePrivileged.PlainBus :=
  ⟨by simp [h.aligns], by simp [h.answers]⟩

theorem State.PlainBus.enterHalt (h : s.PlainBus) : s.enterHalt.PlainBus := ⟨h.aligns, h.answers⟩

/-- A trap on a bus that plain memory answers, in either variant. -/
theorem State.PlainBus.trap (h : s.PlainBus) (aligned : vec &&& 3 = 0) : trap vec s =
    .ok () ((s.leavePrivileged.entered vec s.leavePrivileged.psw).install (s.leavePrivileged.memValue .word vec)
      (s.leavePrivileged.memValue .word (vec + 2))) := by
  rw [Machine.trap, trapSequence_run, if_pos aligned, h.leavePrivileged.trapBody aligned]

theorem State.PlainBus.haltPath (h : s.PlainBus) (aligned : s.params.haltVector &&& 3 = 0) : haltPath s =
    .ok () ((s.enterHalt.entered s.params.haltVector s.psw).installHalt (s.enterHalt.memValue .word s.params.haltVector)
      (s.enterHalt.memValue .word (s.params.haltVector + 2))) := by
  rw [haltPath_run, if_pos aligned, h.enterHalt.haltBody aligned]

end

theorem leavePrivileged_base {s : State} (base : s.extended = false) : s.leavePrivileged = s := by
  rw [State.leavePrivileged, if_neg (by simp [base])]

theorem leavePrivileged_extended {s : State} (ext : s.extended = true) :
    s.leavePrivileged = (s.setPsw (withH false s.psw)).bankSwitch .nonpriv := by
  rw [State.leavePrivileged, if_pos ext]

theorem install_unprivileged {s : State} {newPsw : Word}
    (off : (s.extended && flagH (newPsw &&& pswImpl s.params.variant)) = false) (newPc : Word) :
    s.install newPc newPsw = { (s.setReg .pc newPc).writePsw newPsw with waitState := false } :=
  congrArg (fun u : State => { u with waitState := false }) (if_neg (Bool.eq_false_iff.mp off))

/-- The install maps the privileged bank where the new PSW asks for it (R476). -/
theorem install_bank_calls (s : State) (newPc newPsw : Word) :
    let privileged := s.extended && flagH (newPsw &&& pswImpl s.params.variant)
    (s.install newPc newPsw).bank = (if privileged then .priv else s.bank) ∧
    (s.install newPc newPsw).calls = (if privileged then [.bankSwitch .priv] else []) ++ s.calls := by
  intro privileged
  cases mode : privileged
  · rw [install_unprivileged mode]
    exact ⟨rfl, rfl⟩
  · have switched : s.install newPc newPsw =
        { ((s.setReg .pc newPc).writePsw newPsw).bankSwitch .priv with waitState := false } :=
      congrArg (fun u : State => { u with waitState := false }) (if_pos mode)
    rw [switched]
    exact ⟨rfl, rfl⟩

theorem variant_of_extended {s : State} (ext : s.extended = true) : s.params.variant = .extended := by
  simpa [State.extended] using ext

theorem variant_of_base {s : State} (base : s.extended = false) : s.params.variant = .base := by
  cases variant : s.params.variant with
  | base => rfl
  | extended => simp [State.extended, variant] at base

/-! ### Words in memory -/

theorem toNat_alignWord (a : Word) : (alignWord a).toNat = a.toNat / 2 * 2 := by
  have shifts : alignWord a = a >>> 1 <<< 1 := BitVec.eq_of_getLsbD_eq fun i hi => by
    rw [alignWord, BitVec.getLsbD_and]
    interval_cases i <;> simp
  rw [shifts, BitVec.toNat_shiftLeft, BitVec.toNat_ushiftRight, Nat.shiftLeft_eq, Nat.shiftRight_one]
  omega

/-- Neither byte of a word lies in another word. -/
theorem not_mem_word_of_ne {a b : Word} (ne : alignWord a ≠ alignWord b) :
    alignWord a ∉ [alignWord b, alignWord b + 1] ∧ alignWord a + 1 ∉ [alignWord b, alignWord b + 1] := by
  have first := toNat_alignWord a
  have second := toNat_alignWord b
  simp only [List.mem_cons, List.not_mem_nil, or_false, not_or]
  refine ⟨⟨ne, ?_⟩, ?_, ?_⟩
  all_goals bv_omega

section
variable {s : State}

theorem memValue_of_same {t : State} (mem : t.mem = s.mem) (phys : ∀ a, t.phys a = s.phys a) (sz : Size) (a : Word) :
    t.memValue sz a = s.memValue sz a := by
  cases sz <;> simp only [State.memValue, State.memByte, mem, phys]

/-- A word stored reads back where the mapper keeps its bytes apart. -/
theorem storeMem_memValue_same (wf : s.mem.wf = true) {a : Word} (apart : s.phys a ≠ s.phys (a + 1)) (v : Word) :
    (s.storeMem .word a v).memValue .word a = v := by
  rw [State.memValue, storeMem_word_memByte_high wf, storeMem_word_memByte_low wf apart, joinBytes_bytes]

/-- A word stored elsewhere changes no byte of a word, where the mapper maps no two addresses to one. -/
theorem storeMem_memValue_other (apart : ∀ x y, s.phys x = s.phys y → x = y) {a b : Word}
    (ne : alignWord a ≠ alignWord b) (v : Word) :
    (s.storeMem .word (alignWord b) v).memValue .word (alignWord a) = s.memValue .word (alignWord a) := by
  have other {x : Word} (outside : x ∉ [alignWord b, alignWord b + 1]) :
      (s.storeMem .word (alignWord b) v).memByte x = s.memByte x := by
    rw [State.memByte, storeMem_phys]
    refine storeMem_read_other s .word _ v fun inside => outside ?_
    simp only [State.storeBytes, List.mem_cons, List.not_mem_nil, or_false] at inside ⊢
    exact inside.imp (apart _ _) (apart _ _)
  obtain ⟨low, high⟩ := not_mem_word_of_ne ne
  rw [State.memValue, State.memValue, other low, other high]

/-! ### The return -/

/-- SP and PC written over and written back. -/
theorem Regs.set_back (g : Regs) (a b : Word) :
    (((g.set .sp a).set .pc b).set .sp (g.get .sp)).set .pc (g.get .pc) = g := rfl

/-- The state after a pop from plain memory. -/
def State.popped (s : State) : State :=
  (s.afterCall (.read (alignWord (s.reg .sp)) .word)).setReg .sp (s.reg .sp + 2)

theorem State.PlainBus.pop (h : s.PlainBus) : pop s = .ok (s.memValue .word (alignWord (s.reg .sp))) s.popped := by
  rw [pop_run, h.memRead]
  rfl

theorem State.PlainBus.popped (h : s.PlainBus) : s.popped.PlainBus := (h.afterCall _).setReg _ _

theorem popped_popped_regs (s : State) : s.popped.popped.regs = s.regs.set .sp (s.reg .sp + 4) := by
  have sp : s.reg .sp + 2 + 2 = s.reg .sp + 4 := BitVec.add_assoc _ _ _
  rw [← sp, ← Regs.set_set s.regs .sp (s.reg .sp + 2)]
  rfl

/-- The return from an exception, where plain memory answers. -/
theorem State.PlainBus.trapReturn (h : s.PlainBus) : ∃ u, trapReturn s = .ok () u ∧
    u.regs = (s.regs.set .sp (s.reg .sp + 4)).set .pc (s.memValue .word (alignWord (s.reg .sp))) ∧
    u.psw = s.memValue .word (alignWord (s.reg .sp + 2)) &&& pswImpl s.params.variant := by
  unfold Machine.trapReturn
  rw [act_bind_ok h.pop, act_bind_ok h.popped.pop]
  refine ⟨_, rfl, ?_, ?_⟩
  · rw [bankFollows_regs, writePsw_regs, setReg_regs, popped_popped_regs]
  · rw [bankFollows_psw]
    rfl

end

/-- What the body of an exception has pushed lies at SP, PC below the PSW. -/
theorem entered_stack {s : State} (wf : s.mem.wf = true) (apart : ∀ x y, s.phys x = s.phys y → x = y)
    (vec oldPsw : Word) :
    (s.entered vec oldPsw).memValue .word (alignWord (s.reg .sp - 4)) = s.reg .pc ∧
    (s.entered vec oldPsw).memValue .word (alignWord (s.reg .sp - 2)) = oldPsw := by
  have bytes (x : Word) : s.phys x ≠ s.phys (x + 1) := fun same => by
    have := apart _ _ same
    bv_omega
  have below : alignWord (s.reg .sp - 2) ≠ alignWord (s.reg .sp - 4) := by
    have first := toNat_alignWord (s.reg .sp - 2)
    have second := toNat_alignWord (s.reg .sp - 4)
    bv_omega
  let first := s.storeMem .word (alignWord (s.reg .sp - 2)) oldPsw
  have phys (x : Word) : first.phys x = s.phys x := storeMem_phys s .word _ oldPsw x
  have stored (x : Word) : (s.entered vec oldPsw).memValue .word x =
      (first.storeMem .word (alignWord (s.reg .sp - 4)) (s.reg .pc)).memValue .word x :=
    memValue_of_same (s := first.storeMem .word (alignWord (s.reg .sp - 4)) (s.reg .pc)) (t := s.entered vec oldPsw) rfl
      (fun y => ((storeMem_phys first .word (alignWord (s.reg .sp - 4)) (s.reg .pc) y).trans (phys y)).symm) .word x
  rw [stored, stored]
  constructor
  · exact storeMem_memValue_same (storeMem_wf wf _ _ _) (by rw [phys, phys]; exact bytes _) _
  · rw [storeMem_memValue_other (fun x y => by rw [phys, phys]; exact apart x y) below]
    exact storeMem_memValue_same wf (bytes _) oldPsw

/-- A trap taken in the unprivileged mode leaves PSW and mapping as they are. -/
theorem leavePrivileged_user {s : State} (inv : s.Inv) (user : flagH s.psw = false) :
    s.leavePrivileged = { s with calls := s.leavePrivileged.calls } := by
  cases ext : s.extended
  · rw [leavePrivileged_base ext]
  · have psw : withH false s.psw = s.psw := withBit_false_of_clear (by decide) user
    have bank : s.bank = .nonpriv := by rw [inv.bank, user, Bool.and_false]; rfl
    rw [leavePrivileged_extended ext, psw]
    change { s with bank := .nonpriv, calls := .bankSwitch .nonpriv :: s.calls } = _
    rw [← bank]
    rfl

/-- The bank follows the PSW, so it is the unprivileged one where H is 0 or the variant has no H. -/
theorem State.Inv.bank_user {s : State} (inv : s.Inv) (user : (s.extended && flagH s.psw) = false) :
    s.bank = .nonpriv := by
  rw [inv.bank, user]; rfl

end Sys2Proof.Machine
end

section
open Sys2Proof Sys2Proof.Machine

/-- Settles O42: BASE has no mode to leave and none to enter. -/
theorem baseTrapEntry : Obligations.BaseTrapEntry := by
  intro s vec plain base aligned
  have unprivileged : ((s.entered vec s.psw).extended &&
      flagH (s.memValue .word (vec + 2) &&& pswImpl (s.entered vec s.psw).params.variant)) = false := by
    rw [show (s.entered vec s.psw).extended = s.extended from rfl, base, Bool.false_and]
  have psw : pswImpl (s.entered vec s.psw).params.variant = 0x00FF := congrArg pswImpl (variant_of_base base)
  rw [plain.trap aligned, leavePrivileged_base base, install_unprivileged unprivileged, State.writePsw,
    setReg_params, psw]
  rfl

/-- Settles O43: the mode is left before the body of the sequence, and entered, where it is, in the install. -/
theorem extendedTrapEntry : Obligations.ExtendedTrapEntry := by
  intro s vec plain ext aligned u a b
  let entered : State := State.entered { u with calls := .bankSwitch .nonpriv :: s.calls } vec u.psw
  let t := entered.install (u.memValue .word vec) (u.memValue .word (vec + 2))
  have run : trap vec s = .ok () t := by
    rw [plain.trap aligned, leavePrivileged_extended ext]
    rfl
  have variant : entered.params.variant = .extended := variant_of_extended ext
  have psw : t.psw = u.memValue .word (vec + 2) &&& 0x01FF := by rw [install_psw, variant]; rfl
  have mode : (entered.extended && flagH (u.memValue .word (vec + 2) &&& pswImpl entered.params.variant)) =
      flagH t.psw := by
    rw [install_psw, show entered.extended = true from ext, Bool.true_and]
  obtain ⟨bank, calls⟩ := install_bank_calls entered (u.memValue .word vec) (u.memValue .word (vec + 2))
  rw [mode] at bank calls
  refine ⟨t, run, install_regs .., psw, install_mem .., bank, rfl, ?_⟩
  rw [List.append_assoc]
  exact calls

/-- Settles O44: the privileged bank is mapped before the vector reads and the pushes, and the install sets H again. -/
theorem haltPathEntry : Obligations.HaltPathEntry := by
  intro s plain ext aligned vec u a b
  have impl : pswImpl s.params.variant = 0x01FF := by rw [variant_of_extended ext]; rfl
  refine ⟨_, plain.haltPath aligned, rfl, ?_, rfl, rfl, rfl, rfl⟩
  rw [← impl]
  rfl

/-- Settles O45: the handler is in the mode that the trap came from, so the return finds the two words pushed under the
same mapping, and the bank follows the PSW before and after. -/
theorem trapReturnRoundTrip : Obligations.TrapReturnRoundTrip := by
  intro s vec plain inv aligned user apart handler
  let entered : State := State.entered { s with calls := s.leavePrivileged.calls } vec s.psw
  let t : State := entered.install (s.memValue .word vec) (s.memValue .word (vec + 2))
  have run : trap vec s = .ok () t := by
    rw [plain.trap aligned, leavePrivileged_user inv user]
    rfl
  have invT : t.Inv := ((carries_trap vec).ok run).inv inv
  have params : t.params = s.params := install_params ..
  have handlerMode : (t.extended && flagH t.psw) = false := by
    rw [State.extended, params, install_psw]
    cases ext : s.extended
    · exact Bool.and_eq_false_imp.mpr fun e => absurd (e.symm.trans ext) nofun
    · rw [flagH, BitVec.getLsbD_and, show BitVec.getLsbD _ _ = false from handler ext, Bool.false_and, Bool.and_false]
  have bankT : t.bank = .nonpriv := invT.bank_user handlerMode
  have bank : s.bank = .nonpriv := inv.bank_user (by rw [user, Bool.and_false])
  have stack (a : Word) : t.memValue .word a = entered.memValue .word a :=
    memValue_of_same (install_mem ..) (fun a => by rw [State.phys, State.windows, bankT, ← bank, params]; rfl) .word a
  obtain ⟨pc, psw⟩ : entered.memValue .word (alignWord (s.reg .sp - 4)) = s.reg .pc ∧
      entered.memValue .word (alignWord (s.reg .sp - 2)) = s.psw := entered_stack inv.memory apart vec s.psw
  have plainT : t.PlainBus := ⟨by rw [params, plain.aligns], (install_answers ..).trans plain.answers⟩
  have regsT : t.regs = (s.regs.set .sp (s.reg .sp - 4)).set .pc (s.memValue .word vec) := install_regs ..
  have spT : t.reg .sp = s.reg .sp - 4 := by rw [State.reg, regsT]; rfl
  obtain ⟨u, back, regsU, pswU⟩ := plainT.trapReturn
  have sp : s.reg .sp - 4 + 2 = s.reg .sp - 2 := by bv_omega
  rw [stack, spT, pc, BitVec.sub_add_cancel, regsT] at regsU
  rw [stack, spT, sp, psw, params, pswFits_eq inv.psw] at pswU
  have returned := carries_trapReturn.ok back
  refine ⟨t, u, run, back, ?_, pswU, ?_⟩
  · exact regsU.trans (Regs.set_back s.regs _ _)
  · have userMode : (u.extended && flagH u.psw) = false := by rw [pswU, user, Bool.and_false]
    exact ((returned.inv invT).bank_user userMode).trans bank.symm

end

section
/-! PROOFS. Reset at power-on and of a running machine, the core's turn after it (spec/70_reset_and_hazards.md R570 to
R573), and the load of a program (log 21). -/

namespace Sys2Proof.Machine

section
variable {s : State}

/-! ### Reset of a running machine -/

/-- What a reset writes, of EXTENDED the latches and the bank too. -/
theorem coreReset_eq (s : State) (b : BitVec 3) : s.coreReset b =
    { s with
      regs            := resetRegs s.params b
      psw             := Config.initialPsw
      ppc             := 0
      ppsw            := 0
      waitState       := false
      tracePending    := false
      busFaultPending := false
      busFaultCount   := 0
      doubleFault     := false
      eventLatch      := if s.extended then false else s.eventLatch
      powerFailReq    := if s.extended then false else s.powerFailReq
      virq            := if s.extended then false else s.virq
      bank            := if s.extended then .nonpriv else s.bank
      calls           := if s.extended then .bankSwitch .nonpriv :: s.calls else s.calls
      start           := ⟨resetRegs s.params b, Config.initialPsw⟩ } := by
  unfold State.coreReset
  split <;> rfl

/-- An environment's turn that is a reset alone. -/
theorem takeInputs_of_reset {b : BitVec 3} {rest : List (List EnvInput)} (h : s.inputs = [.reset b] :: rest) :
    s.takeInputs = { s with inputs := rest }.coreReset b := by
  rw [State.takeInputs, h]
  rfl

/-! ### The core's turn at priority 7 -/

theorem priority_initialPsw : priority Config.initialPsw = 7 := rfl

theorem flagH_initialPsw : flagH Config.initialPsw = false := rfl

/-- No request exceeds priority 7, and the ladder stops there once the halt pin is low (R480, R521). -/
theorem arbitrate_idle_of_masked (noBusFault : s.busFaultPending = false) (noTrace : s.tracePending = false)
    (masked : priority s.psw = 7) (noHalt : s.extended = true → s.haltLine = false) : arbitrate s = .idle s := by
  cases variant : s.params.variant with
  | base =>
    rw [arbitrate_base variant, arbitrateBase, noBusFault, noTrace, Bool.and_false, masked]
    cases s.irqEntry with
    | none => rfl
    | some e =>
      have top : ¬ (7 : BitVec 3) < e.priority := by bv_omega
      exact if_neg top
  | extended =>
    have low : s.haltLine = false := noHalt (by simp [State.extended, variant])
    rw [arbitrate_extended variant, arbitrateExt, noBusFault, noTrace, low, masked]
    rfl

/-- Priority 7 does not mask the halt pin of a core in the unprivileged mode (R522). -/
theorem arbitrate_halt_of_unprivileged (noBusFault : s.busFaultPending = false) (noTrace : s.tracePending = false)
    (user : flagH s.psw = false) (ext : s.extended = true) (halt : s.haltLine = true) :
    arbitrate s = takeAtBoundary haltPath id s := by
  rw [arbitrate_extended (variant_of_extended ext), arbitrateExt, noBusFault, noTrace, halt, user]
  rfl

/-- A core that neither is stuck nor waits executes where the arbiter changes nothing. -/
theorem coreStep_executed (notStuck : s.doubleFault = false) (notWaiting : s.waitState = false)
    (idle : arbitrate s = .idle s) : coreStep s = (.executed, executeOne s) := by
  rw [coreStep, notStuck, idle]
  simp [notWaiting]

/-! ### The load of a program -/

theorem alignWord_add_two (a : Word) : alignWord (a + 2) = alignWord a + 2 := by
  have first := toNat_alignWord a
  have second := toNat_alignWord (a + 2)
  bv_omega

/-- The first of the words placed is the one fetched: the others lie above it, where the mapper maps no two addresses
to one. -/
theorem placeWords_fetchAddr (wf : s.mem.wf = true) (apart : ∀ x y, s.phys x = s.phys y → x = y) (w0 w1 w2 : Word) :
    (s.placeWords w0 w1 w2).memValue .word s.fetchAddr = w0 := by
  have second : s.fetchAddr + 2 = alignWord (s.reg .pc + 2) := (alignWord_add_two _).symm
  have third : s.fetchAddr + 4 = alignWord (s.reg .pc + 2 + 2) := by
    rw [alignWord_add_two, ← second, BitVec.add_assoc]; rfl
  have above2 : alignWord (s.reg .pc) ≠ alignWord (s.reg .pc + 2) := by rw [← second, State.fetchAddr]; bv_omega
  have above4 : alignWord (s.reg .pc) ≠ alignWord (s.reg .pc + 2 + 2) := by rw [← third, State.fetchAddr]; bv_omega
  rw [State.placeWords, second, third, State.fetchAddr, storeMem_memValue_other (by simpa using apart) above4,
    storeMem_memValue_other (by simpa using apart) above2]
  refine storeMem_memValue_same wf (fun same => ?_) w0
  have := apart _ _ same
  bv_omega

/-- The decoder reads the low word of a table word. -/
theorem decodeTableWord_eq (nbits w : Nat) :
    decodeTableWord nbits w = some (decode (BitVec.ofNat 16 (w % 2 ^ nbits))) := by
  rw [← joinBytes_bytes (BitVec.ofNat 16 (w % 2 ^ nbits))]
  rfl

theorem reset_withFetchWord_undisturbed (nbits w : Nat) : (State.reset.withFetchWord nbits w).Undisturbed where
  notStuck   := rfl
  notWaiting := rfl
  noInput    := rfl
  noTrap     := arbitrate_idle_of_masked rfl rfl priority_initialPsw nofun

end

end Sys2Proof.Machine
end

section
open Sys2Proof Sys2Proof.Machine

/-- Settles O17: the reset PSW has priority 7 and H = 0, so of all requests the halt pin alone is not masked. -/
theorem resetOfRunningMachine : Obligations.ResetOfRunningMachine := by
  intro s b rest inputs t
  have reset : t = { s with inputs := rest }.coreReset b := takeInputs_of_reset inputs
  rw [coreReset_eq] at reset
  rw [reset]
  refine ⟨rfl, rfl, rfl, rfl, rfl, rfl, rfl, rfl, rfl, rfl, fun ext => ?_, fun noHalt => ?_, fun ext halt => ?_⟩
  · have ext' : { s with inputs := rest }.extended = true := ext
    simp only [ext', if_true, and_self]
  · exact coreStep_executed rfl rfl (arbitrate_idle_of_masked rfl rfl priority_initialPsw noHalt)
  · exact arbitrate_halt_of_unprivileged rfl rfl flagH_initialPsw ext halt

/-- Settles O8: nothing disturbs the fetch of the placed word from plain memory, whose mapper has no window. -/
theorem placedWordRunsAfterReset : Obligations.PlacedWordRunsAfterReset := by
  intro nbits w i decoded
  have apart (x y : Word) (same : State.reset.quiesce.phys x = State.reset.quiesce.phys y) : x = y :=
    BitVec.eq_of_toNat_eq same
  have fetched := placeWords_fetchAddr (s := State.reset.quiesce) rfl apart (BitVec.ofNat 16 (w % 2 ^ nbits))
  obtain ⟨-, memory, -⟩ := stepRunsDecodedInstruction _ (reset_withFetchWord_undisturbed nbits w)
  rw [decodeTableWord_eq, Option.some.injEq] at decoded
  rw [memory rfl, ← decoded]
  exact congrArg (fun v => exec (decode v) _) (fetched _ _)

/-- Settles O14: each value is a field of the reset state; index 4 of INITIAL_PC is 0x1000. -/
theorem resetValues : Obligations.ResetValues := by
  refine ⟨fun p b => ?_, fun p table => ?_⟩
  · refine ⟨rfl, rfl, rfl, rfl, rfl, rfl, rfl, rfl, fun variant => ⟨rfl, rfl, rfl, rfl, ?_⟩⟩
    simp only [State.resetWith, variant]
  · have pc : (State.resetWith p 4).reg .pc = p.initialPc.get 4 := rfl
    rw [pc, table]
    exact ⟨rfl, rfl⟩

end
